-- ==== Sys2Proof/Word.lean ====
section
/-! DEFINITION. The two widths of the machine (00_scope.md R3): a byte and a 16-bit word. -/

namespace Sys2Proof

/-- A data byte, an 8-bit register, an I/O datum or a memory cell: 8 bits (R3). -/
abbrev Byte := BitVec 8

/-- A register pair, SP, pc or a memory address: 16 bits (R3). -/
abbrev Word := BitVec 16

end Sys2Proof
end

