-- ==== Sys2Proof/Syntax.lean ====
section
/-! DEFINITION. The instructions: one constructor per row of spec/opcode_table.json, in the order of 00_scope.md R2. -/

namespace Sys2Proof

/-- The seven 8-bit registers (10_state.md R20). -/
inductive Reg where
  | b | c | d | e | h | l | a
  deriving DecidableEq, Repr

/-- An 8-bit operand named by a field SSS or DDD: a register, or M, the memory byte whose address is in H and L
(30_encoding.md R74, R76). -/
inductive Operand8 where
  | reg (r : Reg)
  | m
  deriving DecidableEq, Repr

/-- A pair named by RP in LXI, INX, DCX and DAD (R75): BC, DE, HL, or SP. -/
inductive RegPair where
  | b | d | h | sp
  deriving DecidableEq, Repr

/-- A pair named by RP in LDAX and STAX (R75, R109, R110): "only register pairs rp=B ... or rp=D". -/
inductive IndirectPair where
  | b | d
  deriving DecidableEq, Repr

/-- What RP names in PUSH and POP (R75, R220 to R223): BC, DE, HL, or A with the flags. -/
inductive StackPair where
  | b | d | h | psw
  deriving DecidableEq, Repr

/-- The eight conditions, in the order of their codes CCC (30_encoding.md R77). -/
inductive Cond where
  | nz | z | nc | c | po | pe | p | m
  deriving DecidableEq, Repr

/-- The 78 instructions (00_scope.md R2). Operands as in 30_encoding.md R72, R78: `addr` and `data16` are byte 3 ∥ byte 2,
`data` and `port` are byte 2, `n` is NNN. -/
inductive Instr where
  -- data transfer (40_data_transfer.md)
  | mov (dst src : Operand8)
  | mvi (dst : Operand8) (data : Byte)
  | lxi (rp : RegPair) (data16 : Word)
  | lda (addr : Word)
  | sta (addr : Word)
  | lhld (addr : Word)
  | shld (addr : Word)
  | ldax (rp : IndirectPair)
  | stax (rp : IndirectPair)
  | xchg
  -- arithmetic (41_arithmetic.md)
  | add (src : Operand8)
  | adi (data : Byte)
  | adc (src : Operand8)
  | aci (data : Byte)
  | sub (src : Operand8)
  | sui (data : Byte)
  | sbb (src : Operand8)
  | sbi (data : Byte)
  | inr (dst : Operand8)
  | dcr (dst : Operand8)
  | inx (rp : RegPair)
  | dcx (rp : RegPair)
  | dad (rp : RegPair)
  | daa
  -- logical, compare, rotate, flags (42_logical.md)
  | ana (src : Operand8)
  | ani (data : Byte)
  | xra (src : Operand8)
  | xri (data : Byte)
  | ora (src : Operand8)
  | ori (data : Byte)
  | cmp (src : Operand8)
  | cpi (data : Byte)
  | rlc
  | rrc
  | ral
  | rar
  | cma
  | cmc
  | stc
  -- branch (43_branch.md)
  | jmp (addr : Word)
  | jnz (addr : Word)
  | jz (addr : Word)
  | jnc (addr : Word)
  | jc (addr : Word)
  | jpo (addr : Word)
  | jpe (addr : Word)
  | jp (addr : Word)
  | jm (addr : Word)
  | call (addr : Word)
  | cnz (addr : Word)
  | cz (addr : Word)
  | cnc (addr : Word)
  | cc (addr : Word)
  | cpo (addr : Word)
  | cpe (addr : Word)
  | cp (addr : Word)
  | cm (addr : Word)
  | ret
  | rnz
  | rz
  | rnc
  | rc
  | rpo
  | rpe
  | rp
  | rm
  | rst (n : BitVec 3)
  | pchl
  -- stack, input/output, machine control (44_stack_io_control.md)
  | push (rp : StackPair)
  | pop (rp : StackPair)
  | xthl
  | sphl
  | inPort (port : Byte)
  | outPort (port : Byte)
  | ei
  | di
  | hlt
  | nop
  deriving DecidableEq, Repr

end Sys2Proof
end

