-- ==== Sys2Proof/Machine/Bits.lean ====
section
/-! DEFINITION. Bit fields, byte order and the field codes of the encoding (00_scope.md R5, R6; 30_encoding.md R73 to R78). -/

namespace Sys2Proof.Machine

/-- `h ∥ l`: the 16-bit value 256*h + l (R6). -/
def join (h l : Byte) : Word := h ++ l

/-- The high-order eight bits, bits 15:8 (R5). -/
def highByte (w : Word) : Byte := w.extractLsb' 8 8

/-- The low-order eight bits, bits 7:0 (R5). -/
def lowByte (w : Word) : Byte := w.extractLsb' 0 8

/-- DDD, CCC and NNN: bits 5:3 of the first byte (R73). -/
def midField (b : Byte) : BitVec 3 := b.extractLsb' 3 3

/-- SSS: bits 2:0 of the first byte (R73). -/
def lowField (b : Byte) : BitVec 3 := b.extractLsb' 0 3

/-- RP: bits 5:4 of the first byte (R73). -/
def pairField (b : Byte) : BitVec 2 := b.extractLsb' 4 2

/-- The operand a code SSS or DDD names (R74, `REGCODE`). -/
def operandOfCode (c : BitVec 3) : Operand8 :=
  if c = 0 then .reg .b else if c = 1 then .reg .c else if c = 2 then .reg .d else if c = 3 then .reg .e
  else if c = 4 then .reg .h else if c = 5 then .reg .l else if c = 6 then .m else .reg .a

/-- The pair a code RP names in LXI, INX, DCX, DAD (R75, `RPCODE`). -/
def regPairOfCode (c : BitVec 2) : RegPair :=
  if c = 0 then .b else if c = 1 then .d else if c = 2 then .h else .sp

/-- The pair a code RP names in LDAX and STAX, whose bytes have RP below 10 (R75, R80). -/
def indirectPairOfCode (c : BitVec 2) : IndirectPair :=
  if c = 0 then .b else .d

/-- What a code RP names in PUSH and POP (R75). -/
def stackPairOfCode (c : BitVec 2) : StackPair :=
  if c = 0 then .b else if c = 1 then .d else if c = 2 then .h else .psw

/-- The code of an operand (R74). -/
def codeOfOperand : Operand8 → BitVec 3
  | .reg .b => 0b000#3
  | .reg .c => 0b001#3
  | .reg .d => 0b010#3
  | .reg .e => 0b011#3
  | .reg .h => 0b100#3
  | .reg .l => 0b101#3
  | .m => 0b110#3
  | .reg .a => 0b111#3

/-- The code of a pair in LXI, INX, DCX, DAD (R75). -/
def codeOfRegPair : RegPair → BitVec 2
  | .b => 0b00#2
  | .d => 0b01#2
  | .h => 0b10#2
  | .sp => 0b11#2

/-- The code of a pair in LDAX, STAX (R75). -/
def codeOfIndirectPair : IndirectPair → BitVec 2
  | .b => 0b00#2
  | .d => 0b01#2

/-- The code of a pair in PUSH, POP (R75). -/
def codeOfStackPair : StackPair → BitVec 2
  | .b => 0b00#2
  | .d => 0b01#2
  | .h => 0b10#2
  | .psw => 0b11#2

end Sys2Proof.Machine
end

