-- ==== Sys2Proof/Config.lean ====
section
/-! DEFINITION. What the platform and the environment fix, and the free values: constants with no body, so that nothing
can be proved of the values the spec leaves open (00_scope.md R4, 93_implementation_defined.md part 1). -/

namespace Sys2Proof

/-- What a transfer with the environment addresses: a port (20_memory.md R65), or a memory address at which the platform
has a device ("reads and writes go to the environment, as for ports", R58). -/
inductive Endpoint where
  | port (number : Byte)
  | device (address : Word)
  deriving DecidableEq, Repr

/-- One event between the processor and its environment. R65: "records each IN and OUT as an event in program order";
60_exceptions.md R242: the acceptance of an interrupt "is visible to the environment". -/
inductive Event where
  | input (source : Endpoint) (value : Byte)
  | output (target : Endpoint) (value : Byte)
  | interruptAccepted (supplied : Byte)
  deriving DecidableEq, Repr

/-- What a memory address has behind it: the four kinds of 20_memory.md R58. -/
inductive MemKind where
  | ram
  | rom
  | device
  | nothing
  deriving DecidableEq, Repr

/-- One entry of a memory map: the addresses `first` to `last`, both included, and their kind (R58, `MEMMAP`). -/
structure Region where
  first : Nat
  last : Nat
  kind : MemKind
  deriving DecidableEq, Repr

/-- What the outside does at one boundary between steps: it may raise reset (70_reset_and_hazards.md R270), and it presents
either no request or a request with the supplied instruction byte (60_exceptions.md R244, R246). -/
structure Boundary where
  reset : Bool
  request : Option Byte
  deriving DecidableEq, Repr

/-- A boundary at which nothing happens: no reset, no request. -/
def Boundary.quiet : Boundary := { reset := false, request := none }

namespace Config

/-- `RESET_PC`: the address of the first instruction after reset (R4, R35, R270). -/
def resetPc : Word := 0x0000#16

/-- The byte read from RAM or ROM that nothing has written. DESIGN CHOICE, unsafe: log entry 2 (the reference instance of
95_test_vectors.md has "every byte 0x00 unless stated"; R35 says only that reset does not write memory). -/
def blankByte : Byte := 0x00#8

/-- FREE VALUE (`IOENV`, R65): what the environment answers to a read, as a function of all the events so far and of what
is read. Used when no answer is lined up in the state. Log entry 4. -/
opaque environment : List Event → Endpoint → Byte

/-- FREE VALUE (R58: "a read returns a draw"): the byte read at an address that has nothing behind it, for the draw
counter and the address. Log entry 7. -/
opaque floatingBus : Nat → Word → Byte

/-- FREE VALUE (`ANA_AC`, 42_logical.md R150): AC after ANA, for the draw counter and the two operands. Log entry 3. -/
opaque anaAC : Nat → Byte → Byte → Bool

/-- FREE VALUE (R55, 93_implementation_defined.md U6): whether two accesses of one instruction that both reach devices come
in the reverse of R66's order. Log entry 8. -/
opaque reverseOrder : Nat → Bool

/-- FREE VALUE (R55, U6): whether XTHL on two device bytes exchanges one byte completely before the other. Log entry 8. -/
opaque exchangeBytewise : Nat → Bool

end Config

end Sys2Proof
end

