-- ==== Sys2Proof/Machine/State.lean ====
section
/-! DEFINITION. The state of the machine, plain data (10_state.md), the reasons a step can stop, and the state after
reset. -/

namespace Sys2Proof.Machine

/-- Memory (20_memory.md R50): address and byte pairs, addresses strictly rising and below 2^16, no entry equal to
`Config.blankByte`, which is what an unlisted address reads as. `Memory.wf` in Ops.lean says so. -/
abbrev Memory := List Host.Cell

/-- The five condition flags (10_state.md R24). The status word is packed from them (R28). -/
structure Flags where
  z : Bool
  s : Bool
  p : Bool
  cy : Bool
  ac : Bool
  deriving DecidableEq, Repr

/-- Everything the spec gives the machine. The fields `a` to `mem` are the processor's and its memory (R20 to R33); `memmap`
is the platform's parameter `MEMMAP` (R58); `events`, `answers` and `boundaries` are the environment's side (R34, R65,
R244, R270), kept as plain data; `draws` is the model's own. INVENTORY.md lists each with its reset value. -/
structure State where
  a : Byte
  b : Byte
  c : Byte
  d : Byte
  e : Byte
  h : Byte
  l : Byte
  sp : Word
  pc : Word
  flags : Flags
  inte : Bool
  eiPending : Bool
  halted : Bool
  mem : Memory
  memmap : List Region
  events : List Event
  answers : List Byte
  boundaries : List Boundary
  draws : Nat
  deriving DecidableEq, Repr

/-- Why a step has no next state. -/
inductive Fault where
  /-- Raised by the fetch of one of the 12 first bytes that no definition of the source covers (30_encoding.md R82,
  60_exceptions.md R241), before anything is changed: "UndefinedOpcode(pc, b)". Safe: the hardware goes on, the model
  proves nothing of it. -/
  | undefinedOpcode (pc : Word) (b : Byte)
  /-- Raised by a step from `halted` = 1 with `inte` = 0 when no reset comes (R248; 93_implementation_defined.md U10, "stuck
  by design"): the end of a run. Safe: the hardware performs no step here either. -/
  | stopped
  deriving DecidableEq, Repr

/-- Why the model gives no meaning. -/
inductive Refusal where
  /-- Raised by an arm of `exec` for an instruction that has no meaning yet. Safe. -/
  | notModelled (mnemonic : String)
  /-- Raised by the acceptance of an interrupt whose supplied byte is not RST n: the named refusal of 60_exceptions.md R246.
  Safe: how such an instruction's further bytes are supplied is beyond the spec. -/
  | unsupportedInterruptInstruction (b : Byte)
  /-- Raised by the meaning of MOV for the ill-formed term MOV M,M, which no bytes decode to (30_encoding.md R81). Safe. -/
  | noSuchInstruction
  deriving DecidableEq, Repr

/-- What a step or a meaning answers. -/
abbrev Result := Host.Outcome State Fault Refusal

/-- The machine right after a first reset (10_state.md R35, 70_reset_and_hazards.md R270): pc at `RESET_PC`, interrupts
disabled, not stopped. The spec gives the registers, SP and the flags no value: zero here is a DESIGN CHOICE, unsafe, log
entry 1. Memory lists nothing (entry 2); the platform is the reference instance, all RAM (entry 6); the environment has
lined nothing up (entries 4, 5); `draws` is the model's own counter (entry 18). -/
def State.reset : State where
  a := 0
  b := 0
  c := 0
  d := 0
  e := 0
  h := 0
  l := 0
  sp := 0
  pc := Config.resetPc
  flags := { z := false, s := false, p := false, cy := false, ac := false }
  inte := false
  eiPending := false
  halted := false
  mem := []
  memmap := []
  events := []
  answers := []
  boundaries := []
  draws := 0

end Sys2Proof.Machine
end

