-- ==== Sys2Proof/Machine/Flags.lean ====
section
/-! DEFINITION. Every flag computation of the spec (10_state.md R25 to R28; 41_arithmetic.md R132, R133). -/

namespace Sys2Proof.Machine

/-- R25: P is 1 when the number of 1 bits is even. -/
def evenParity (v : Byte) : Bool :=
  !(v.getLsbD 0 ^^ v.getLsbD 1 ^^ v.getLsbD 2 ^^ v.getLsbD 3 ^^ v.getLsbD 4 ^^ v.getLsbD 5 ^^ v.getLsbD 6 ^^ v.getLsbD 7)

/-- R25: `setZSP(v)` writes Z, S and P from v and does not touch CY or AC. -/
def Flags.setZSP (v : Byte) (f : Flags) : Flags :=
  { f with z := v == 0x00#8, s := v.getLsbD 7, p := evenParity v }

/-- What `add8` and `sub8` return: the result, the carry (or borrow) and the auxiliary carry (R26, R27). -/
structure AluResult where
  r : Byte
  cy : Bool
  ac : Bool
  deriving DecidableEq, Repr

/-- R26: `add8(a, b, c)`, by the 9-bit sum and the 5-bit sum of the low nibbles. -/
def add8 (a b : Byte) (c : Bool) : AluResult :=
  let s9 : BitVec 9 := a.setWidth 9 + b.setWidth 9 + (BitVec.ofBool c).setWidth 9
  let s5 : BitVec 5 := (a.extractLsb' 0 4).setWidth 5 + (b.extractLsb' 0 4).setWidth 5 + (BitVec.ofBool c).setWidth 5
  { r := s9.extractLsb' 0 8, cy := s9.getLsbD 8, ac := s5.getLsbD 4 }

/-- R27: `sub8(a, b, c)`, the addition of the complement; CY is the adder's carry complemented, a borrow; AC is taken as it
is. -/
def sub8 (a b : Byte) (c : Bool) : AluResult :=
  let k := add8 a (~~~b) (!c)
  { r := k.r, cy := !k.cy, ac := k.ac }

/-- The five flags an 8-bit addition or subtraction leaves (R36): `setZSP(r); CY <- cy; AC <- ac`. -/
def AluResult.flags (k : AluResult) : Flags :=
  { z := k.r == 0x00#8, s := k.r.getLsbD 7, p := evenParity k.r, cy := k.cy, ac := k.ac }

/-- The flags after INR and DCR (R128, R129): `setZSP(r); AC <- ac`, CY kept. -/
def AluResult.flagsKeepingCY (k : AluResult) (f : Flags) : Flags :=
  { Flags.setZSP k.r f with ac := k.ac }

/-- The flags after a logical instruction (R150 to R155): `setZSP(r); CY <- 0; AC <- ac`. -/
def logicFlags (r : Byte) (ac : Bool) : Flags :=
  { z := r == 0x00#8, s := r.getLsbD 7, p := evenParity r, cy := false, ac := ac }

/-- R132: the 17-bit sum of DAD: the 16-bit result and the carry out of bit 15. -/
def addDouble (x y : Word) : Word × Bool :=
  let s17 : BitVec 17 := x.setWidth 17 + y.setWidth 17
  (s17.extractLsb' 0 16, s17.getLsbD 16)

/-- R133: DAA, from A and the flags before it: the result, CY and AC. `c1`, the carry out of bit 7 in step 1, counts as a
set CY for step 2 (90_conflicts.md C7). -/
def decimalAdjust (a : Byte) (cy ac : Bool) : AluResult :=
  let lo := a.extractLsb' 0 4
  let step1 : Bool := decide (9#4 < lo) || ac
  let t9 : BitVec 9 := a.setWidth 9 + (if step1 then 6#9 else 0#9)
  let a1 : Byte := t9.extractLsb' 0 8
  let c1 := t9.getLsbD 8
  let step2 : Bool := decide (9#4 < a1.extractLsb' 4 4) || cy || c1
  let u9 : BitVec 9 := a1.setWidth 9 + (if step2 then 0x60#9 else 0#9)
  { r := u9.extractLsb' 0 8, cy := step2, ac := decide (9#4 < lo) }

/-- R28: `psw_pack`: S, Z, 0, AC, 0, P, 1, CY from bit 7 down to bit 0. -/
def pswPack (f : Flags) : Byte :=
  BitVec.ofBool f.s ++ BitVec.ofBool f.z ++ 0b0#1 ++ BitVec.ofBool f.ac ++ 0b0#1 ++ BitVec.ofBool f.p ++ 0b1#1 ++
    BitVec.ofBool f.cy

/-- R28: `psw_unpack`: bits 5, 3 and 1 are ignored. -/
def pswUnpack (v : Byte) : Flags :=
  { z := v.getLsbD 6, s := v.getLsbD 7, p := v.getLsbD 2, cy := v.getLsbD 0, ac := v.getLsbD 4 }

/-- R77: `cond(CCC)`, which reads one flag. -/
def condHolds : Cond → Flags → Bool
  | .nz, f => !f.z
  | .z, f => f.z
  | .nc, f => !f.cy
  | .c, f => f.cy
  | .po, f => !f.p
  | .pe, f => f.p
  | .p, f => !f.s
  | .m, f => f.s

end Sys2Proof.Machine
end

