-- ==== Sys2Proof/Machine/Ops.lean ====
section
/-! DEFINITION. The named operations over registers, memory, the environment and the stack; the taking of an interrupt,
which is the machine's one exception, and the return from it; reset (10_state.md, 20_memory.md, 60_exceptions.md,
70_reset_and_hazards.md). -/

namespace Sys2Proof.Machine

/-! ## Registers (10_state.md R20 to R23) -/

/-- `x[c]`: the value of an 8-bit register (R20). -/
def State.reg (s : State) : Reg → Byte
  | .a => s.a
  | .b => s.b
  | .c => s.c
  | .d => s.d
  | .e => s.e
  | .h => s.h
  | .l => s.l

/-- `x[c] <- v` (R20). -/
def State.setReg (s : State) (r : Reg) (v : Byte) : State :=
  match r with
  | .a => { s with a := v }
  | .b => { s with b := v }
  | .c => { s with c := v }
  | .d => { s with d := v }
  | .e => { s with e := v }
  | .h => { s with h := v }
  | .l => { s with l := v }

/-- `BC = B ∥ C` (R21). -/
def State.bc (s : State) : Word := join s.b s.c

/-- `DE = D ∥ E` (R21). -/
def State.de (s : State) : Word := join s.d s.e

/-- `HL = H ∥ L` (R21). -/
def State.hl (s : State) : Word := join s.h s.l

/-- `BC <- v` (R21). -/
def State.setBC (s : State) (v : Word) : State := { s with b := highByte v, c := lowByte v }

/-- `DE <- v` (R21). -/
def State.setDE (s : State) (v : Word) : State := { s with d := highByte v, e := lowByte v }

/-- `HL <- v` (R21). -/
def State.setHL (s : State) (v : Word) : State := { s with h := highByte v, l := lowByte v }

/-- `SP <- v` (R22). -/
def State.setSP (s : State) (v : Word) : State := { s with sp := v }

/-- `pc <- target` (R23). -/
def State.setPc (s : State) (target : Word) : State := { s with pc := target }

/-- `pc <- pc + len`, modulo 2^16 (R23, R54). -/
def State.advance (s : State) (len : Word) : State := { s with pc := s.pc + len }

/-- The five flags written at once (R24). -/
def State.setFlags (s : State) (f : Flags) : State := { s with flags := f }

/-- CY alone written (R132, R158 to R164). -/
def State.setCY (s : State) (cy : Bool) : State := { s with flags := { s.flags with cy := cy } }

/-- The model's own counter moved on, after a free value is drawn (log entry 18). -/
def State.drawn (s : State) : State := { s with draws := s.draws + 1 }

/-! ## Memory as data (20_memory.md R50, R51) -/

/-- The byte at an address: an unlisted address reads as `Config.blankByte` (log entry 2). -/
def Memory.read (m : Memory) (a : Nat) : Byte :=
  match m with
  | [] => Config.blankByte
  | (k, v) :: rest => if k = a then v else Memory.read rest a

/-- The memory with the byte at an address made equal to `v` (R51), in canonical form. -/
def Memory.write (m : Memory) (a : Nat) (v : Byte) : Memory :=
  match m with
  | [] => if v = Config.blankByte then [] else [(a, v)]
  | (k, w) :: rest =>
    if k < a then (k, w) :: Memory.write rest a v
    else if k = a then (if v = Config.blankByte then rest else (a, v) :: rest)
    else if v = Config.blankByte then (k, w) :: rest else (a, v) :: (k, w) :: rest

/-- The canonical form from an address on: addresses strictly rising from `lo` and below 2^16, no blank entry. -/
def Memory.wfFrom (lo : Nat) : Memory → Bool
  | [] => true
  | (k, v) :: rest => decide (lo ≤ k) && decide (k < 65536) && !(v == Config.blankByte) && Memory.wfFrom (k + 1) rest

/-- The canonical form of memory. -/
def Memory.wf (m : Memory) : Bool := Memory.wfFrom 0 m

/-- The model's read of one byte, whatever `MEMMAP` says of the address: what the memory cells hold. -/
def State.peek (s : State) (a : Word) : Byte := Memory.read s.mem a.toNat

/-! ## The memory map (20_memory.md R58) -/

/-- Whether a region has an address. -/
def Region.holds (r : Region) (a : Word) : Bool := decide (r.first ≤ a.toNat) && decide (a.toNat ≤ r.last)

/-- What an address has behind it: the first region that has the address says; an address in no region is RAM (log
entry 6). -/
def kindIn (map : List Region) (a : Word) : MemKind :=
  match map.find? (fun r => Region.holds r a) with
  | some r => r.kind
  | none => .ram

/-- What an address has behind it. -/
def State.kindAt (s : State) (a : Word) : MemKind := kindIn s.memmap a

/-- The address reads as memory does: RAM or ROM (R58). -/
def State.backed (s : State) (a : Word) : Bool := s.kindAt a == .ram || s.kindAt a == .rom

/-- Both addresses have a device: the only case in which the order of two accesses can be observed (R55). -/
def State.bothDevice (s : State) (x y : Word) : Bool := s.kindAt x == .device && s.kindAt y == .device

/-! ## The environment (20_memory.md R65) -/

/-- What the environment answers to the next read: the answer lined up for it, or else a free value (log entry 4). -/
def State.nextAnswer (s : State) (e : Endpoint) : Byte :=
  match s.answers with
  | v :: _ => v
  | [] => Config.environment s.events e

/-- One read from the environment: the answer, and the state with the event recorded (R65). -/
def envRead (e : Endpoint) (s : State) : Byte × State :=
  (s.nextAnswer e, { s with answers := s.answers.tail, events := s.events ++ [.input e (s.nextAnswer e)] })

/-- One write to the environment: the event recorded (R65). -/
def envWrite (e : Endpoint) (v : Byte) (s : State) : State :=
  { s with events := s.events ++ [.output e v] }

/-- `IORead(port)` (R65). -/
def ioRead (port : Byte) (s : State) : Byte × State := envRead (.port port) s

/-- `IOWrite(port, v)` (R65). -/
def ioWrite (port : Byte) (v : Byte) (s : State) : State := envWrite (.port port) v s

/-! ## Memory access (20_memory.md R51 to R58) -/

/-- `MemRead(addr, 1)` (R51, R58). RAM and ROM: the cell, and nothing changes. A device: a read from the environment.
Nothing there: a free value (log entry 7). -/
def memRead (a : Word) (s : State) : Byte × State :=
  match s.kindAt a with
  | .ram => (s.peek a, s)
  | .rom => (s.peek a, s)
  | .device => envRead (.device a) s
  | .nothing => (Config.floatingBus s.draws a, s.drawn)

/-- `MemWrite(addr, 1, v)` (R51, R58). RAM: the cell. A device: a write to the environment. ROM or nothing there: no
effect. -/
def memWrite (a : Word) (v : Byte) (s : State) : State :=
  match s.kindAt a with
  | .ram => { s with mem := Memory.write s.mem a.toNat v }
  | .rom => s
  | .device => envWrite (.device a) v s
  | .nothing => s

/-- Two one-byte reads, `x` before `y` as R66 has them. Where both reach devices the order is open (R55; log entry 8). -/
def readTwo (x y : Word) (s : State) : (Byte × Byte) × State :=
  let s0 := if s.bothDevice x y then s.drawn else s
  if s.bothDevice x y && Config.reverseOrder s.draws then
    let vy := memRead y s0
    let vx := memRead x vy.2
    ((vx.1, vy.1), vx.2)
  else
    let vx := memRead x s0
    let vy := memRead y vx.2
    ((vx.1, vy.1), vy.2)

/-- Two one-byte writes, `x` before `y` as R66 has them. Where both reach devices the order is open (R55; log entry 8). -/
def writeTwo (x : Word) (vx : Byte) (y : Word) (vy : Byte) (s : State) : State :=
  let s0 := if s.bothDevice x y then s.drawn else s
  if s.bothDevice x y && Config.reverseOrder s.draws then
    memWrite x vx (memWrite y vy s0)
  else
    memWrite y vy (memWrite x vx s0)

/-- The exchange of two bytes with two values (XTHL, R224): both reads before both writes (R55), or, where both reach
devices, possibly one byte exchanged completely before the other (U6; log entry 8). The answer is the two old bytes. -/
def exchangeTwo (x : Word) (vx : Byte) (y : Word) (vy : Byte) (s : State) : (Byte × Byte) × State :=
  if s.bothDevice x y && Config.exchangeBytewise s.draws then
    if Config.reverseOrder s.draws then
      let oy := memRead y s.drawn
      let ox := memRead x (memWrite y vy oy.2)
      ((ox.1, oy.1), memWrite x vx ox.2)
    else
      let ox := memRead x s.drawn
      let oy := memRead y (memWrite x vx ox.2)
      ((ox.1, oy.1), memWrite y vy oy.2)
  else
    let old := readTwo x y s
    (old.1, writeTwo x vx y vy old.2)

/-! ## The stack (20_memory.md R56) -/

/-- The two bytes below SP written, the high-order one first, and SP lowered by 2 (R56, R220, R221). -/
def pushBytes (hi lo : Byte) (s : State) : State :=
  (writeTwo (s.sp - 1) hi (s.sp - 2) lo s).setSP (s.sp - 2)

/-- `push16(v)` (R56). -/
def push16 (v : Word) (s : State) : State := pushBytes (highByte v) (lowByte v) s

/-- The two bytes at SP read, the low-order one first, and SP raised by 2 (R56): low, then high. -/
def popBytes (s : State) : (Byte × Byte) × State :=
  let r := readTwo s.sp (s.sp + 1) s
  (r.1, r.2.setSP (s.sp + 2))

/-- `pop16()` (R56). -/
def pop16 (s : State) : Word × State :=
  let r := popBytes s
  (join r.1.2 r.1.1, r.2)

/-! ## Calls, returns and restarts (43_branch.md) -/

/-- The actions of CALL (R190) with the next instruction address given. -/
def callTo (target next : Word) (s : State) : State := (push16 next s).setPc target

/-- The actions of RET (R200), which is also how an interrupt handler returns (60_exceptions.md R250): it restores pc from
the stack and nothing else. -/
def returnFrom (s : State) : State :=
  let r := pop16 s
  r.2.setPc r.1

/-- The target of RST n: eight times n (R78, R210). -/
def restartAddress (n : BitVec 3) : Word := n.setWidth 16 * 8

/-- The actions of RST n (R210) with the next instruction address given: pc + 1 for an RST fetched from memory, pc for one
supplied at the acceptance of an interrupt (60_exceptions.md R245, R246). -/
def restart (n : BitVec 3) (next : Word) (s : State) : State := callTo (restartAddress n) next s

/-! ## The exception: an accepted interrupt (60_exceptions.md R245 to R249) -/

/-- R246: the n of a supplied byte of the form `11 NNN 111`. -/
def suppliedRestart (b : Byte) : Option (BitVec 3) :=
  if b &&& 0xC7#8 = 0xC7#8 then some (midField b) else none

/-- R245, R249: the acceptance of an interrupt, the one exception there is. It saves pc on the stack, clears `inte`,
`ei_pending` and `halted`, and goes to 8 * n; the registers, the flags and the mode (there is one) stay. The environment
sees it (R242; log entry 5). A supplied byte that is not RST n is refused by name (R246; log entry 14). -/
def acceptInterrupt (b : Byte) (s : State) : Result :=
  match suppliedRestart b with
  | none => .refused (.unsupportedInterruptInstruction b)
  | some n =>
    .next (restart n s.pc
      { s with inte := false, eiPending := false, halted := false, events := s.events ++ [.interruptAccepted b] })

/-! ## Interrupt enable and reset -/

/-- R243: the bookkeeping at the end of the step of an instruction fetched from memory: an enable that was pending takes
effect, unless the instruction is EI (which defers it) or DI (which has cancelled it). -/
def endOfStep (i : Instr) (s : State) : State :=
  if s.eiPending && i != .ei && i != .di then { s with inte := true, eiPending := false } else s

/-- R270: the reset event. It writes pc, `inte`, `ei_pending` and `halted`, and no register, flag, memory byte or port. -/
def State.resetEvent (s : State) : State :=
  { s with pc := Config.resetPc, inte := false, eiPending := false, halted := false }

end Sys2Proof.Machine
end

