-- ==== Sys2Proof/Machine/Operands.lean ====
section
/-! DEFINITION. Every operand form (30_encoding.md R74 to R76; 10_state.md R21, R22). -/

namespace Sys2Proof.Machine

/-- `Src8(c)` (R76): the register, or for M the memory byte at HL. -/
def src8 (o : Operand8) (s : State) : Byte × State :=
  match o with
  | .reg r => (s.reg r, s)
  | .m => memRead s.hl s

/-- `Dst8(c, v)` (R76): the register written, or for M the memory byte at HL. -/
def dst8 (o : Operand8) (v : Byte) (s : State) : State :=
  match o with
  | .reg r => s.setReg r v
  | .m => memWrite s.hl v s

/-- `rp[k]` in LXI, INX, DCX, DAD (R75): BC, DE, HL or SP. -/
def State.pair (s : State) : RegPair → Word
  | .b => s.bc
  | .d => s.de
  | .h => s.hl
  | .sp => s.sp

/-- `rp[k] <- v` (R21, R75). -/
def State.setPair (s : State) (rp : RegPair) (v : Word) : State :=
  match rp with
  | .b => s.setBC v
  | .d => s.setDE v
  | .h => s.setHL v
  | .sp => s.setSP v

/-- The address LDAX and STAX use (R109, R110): BC or DE. -/
def State.indirect (s : State) : IndirectPair → Word
  | .b => s.bc
  | .d => s.de

/-- The high-order byte PUSH stores (R220, R221): rh, or A. -/
def State.stackHigh (s : State) : StackPair → Byte
  | .b => s.b
  | .d => s.d
  | .h => s.h
  | .psw => s.a

/-- The low-order byte PUSH stores (R220, R221): rl, or the status word. -/
def State.stackLow (s : State) : StackPair → Byte
  | .b => s.c
  | .d => s.e
  | .h => s.l
  | .psw => pswPack s.flags

/-- What POP does with the two bytes it read (R222, R223): rh and rl, or A and the flags. -/
def State.setStackPair (s : State) (rp : StackPair) (hi lo : Byte) : State :=
  match rp with
  | .b => { s with b := hi, c := lo }
  | .d => { s with d := hi, e := lo }
  | .h => { s with h := hi, l := lo }
  | .psw => { s with a := hi, flags := pswUnpack lo }

end Sys2Proof.Machine
end

