-- ==== Sys2Proof/Machine/Arithmetic.lean ====
section
/-! DEFINITION. The meanings of the arithmetic instructions (41_arithmetic.md R120 to R133). -/

namespace Sys2Proof.Machine

/-- `A <- r` and all five flags, as an 8-bit addition or subtraction leaves them (R36). -/
def State.accumulate (s : State) (k : AluResult) : State := (s.setReg .a k.r).setFlags k.flags

/-- INR and DCR (R128, R129): the operand written, `setZSP(r); AC <- ac`, CY kept. -/
def State.countedOperand (s : State) (dst : Operand8) (k : AluResult) : State :=
  (dst8 dst k.r s).setFlags (k.flagsKeepingCY s.flags)

/-- ADD s (R120): `(r, cy, ac) = add8(A, Src8(SSS), 0)` into A and the five flags; `pc <- pc + 1`. -/
def execAdd (src : Operand8) (s : State) : Result :=
  let v := src8 src s
  .next ((v.2.accumulate (add8 s.a v.1 false)).advance 1)

/-- ADI data8 (R121): `(r, cy, ac) = add8(A, byte2, 0)` into A and the five flags; `pc <- pc + 2`. -/
def execAdi (data : Byte) (s : State) : Result :=
  .next ((s.accumulate (add8 s.a data false)).advance 2)

/-- ADC s (R122): `(r, cy, ac) = add8(A, Src8(SSS), CY)` into A and the five flags; `pc <- pc + 1`. -/
def execAdc (src : Operand8) (s : State) : Result :=
  let v := src8 src s
  .next ((v.2.accumulate (add8 s.a v.1 s.flags.cy)).advance 1)

/-- ACI data8 (R123): `(r, cy, ac) = add8(A, byte2, CY)` into A and the five flags; `pc <- pc + 2`. -/
def execAci (data : Byte) (s : State) : Result :=
  .next ((s.accumulate (add8 s.a data s.flags.cy)).advance 2)

/-- SUB s (R124): `(r, cy, ac) = sub8(A, Src8(SSS), 0)` into A and the five flags; `pc <- pc + 1`. -/
def execSub (src : Operand8) (s : State) : Result :=
  let v := src8 src s
  .next ((v.2.accumulate (sub8 s.a v.1 false)).advance 1)

/-- SUI data8 (R125): `(r, cy, ac) = sub8(A, byte2, 0)` into A and the five flags; `pc <- pc + 2`. -/
def execSui (data : Byte) (s : State) : Result :=
  .next ((s.accumulate (sub8 s.a data false)).advance 2)

/-- SBB s (R126): `(r, cy, ac) = sub8(A, Src8(SSS), CY)` into A and the five flags; `pc <- pc + 1`. -/
def execSbb (src : Operand8) (s : State) : Result :=
  let v := src8 src s
  .next ((v.2.accumulate (sub8 s.a v.1 s.flags.cy)).advance 1)

/-- SBI data8 (R127): `(r, cy, ac) = sub8(A, byte2, CY)` into A and the five flags; `pc <- pc + 2`. -/
def execSbi (data : Byte) (s : State) : Result :=
  .next ((s.accumulate (sub8 s.a data s.flags.cy)).advance 2)

/-- INR d (R128): `v = Src8(DDD); (r, cy, ac) = add8(v, 1, 0); Dst8(DDD, r)`, CY kept; `pc <- pc + 1`. -/
def execInr (dst : Operand8) (s : State) : Result :=
  let v := src8 dst s
  .next ((v.2.countedOperand dst (add8 v.1 1 false)).advance 1)

/-- DCR d (R129): `v = Src8(DDD); (r, cy, ac) = sub8(v, 1, 0); Dst8(DDD, r)`, CY kept; `pc <- pc + 1`. -/
def execDcr (dst : Operand8) (s : State) : Result :=
  let v := src8 dst s
  .next ((v.2.countedOperand dst (sub8 v.1 1 false)).advance 1)

/-- INX rp (R130): `rp[RP] <- rp[RP] + 1; pc <- pc + 1`; no flag. -/
def execInx (rp : RegPair) (s : State) : Result :=
  .next ((s.setPair rp (s.pair rp + 1)).advance 1)

/-- DCX rp (R131): `rp[RP] <- rp[RP] - 1; pc <- pc + 1`; no flag. -/
def execDcx (rp : RegPair) (s : State) : Result :=
  .next ((s.setPair rp (s.pair rp - 1)).advance 1)

/-- DAD rp (R132): HL <- HL + rp, CY <- the carry out of bit 15; `pc <- pc + 1`. -/
def execDad (rp : RegPair) (s : State) : Result :=
  let k := addDouble s.hl (s.pair rp)
  .next (((s.setHL k.1).setCY k.2).advance 1)

/-- DAA (R133): A adjusted to two decimal digits, all five flags; `pc <- pc + 1`. -/
def execDaa (s : State) : Result :=
  .next ((s.accumulate (decimalAdjust s.a s.flags.cy s.flags.ac)).advance 1)

end Sys2Proof.Machine
end

