-- ==== Sys2Proof/Machine/Branch.lean ====
section
/-! DEFINITION. The meanings of the branch instructions (43_branch.md R180 to R211). None writes a flag. -/

namespace Sys2Proof.Machine

/-- R181: `if cond(CCC) then pc <- byte3 ∥ byte2 else pc <- pc + 3`. -/
def jumpIf (cond : Cond) (addr : Word) (s : State) : Result :=
  .next (if condHolds cond s.flags then s.setPc addr else s.advance 3)

/-- R191: `if cond(CCC) then (push16(pc + 3); pc <- byte3 ∥ byte2) else pc <- pc + 3`. -/
def callIf (cond : Cond) (addr : Word) (s : State) : Result :=
  .next (if condHolds cond s.flags then callTo addr (s.pc + 3) s else s.advance 3)

/-- R201: `if cond(CCC) then pc <- pop16() else pc <- pc + 1`. -/
def returnIf (cond : Cond) (s : State) : Result :=
  .next (if condHolds cond s.flags then returnFrom s else s.advance 1)

/-- JMP addr (R180): `pc <- byte3 ∥ byte2`. -/
def execJmp (addr : Word) (s : State) : Result := .next (s.setPc addr)

/-- JNZ addr (R182): R181 with the condition Z = 0. -/
def execJnz (addr : Word) (s : State) : Result := jumpIf .nz addr s

/-- JZ addr (R183): R181 with the condition Z = 1. -/
def execJz (addr : Word) (s : State) : Result := jumpIf .z addr s

/-- JNC addr (R184): R181 with the condition CY = 0. -/
def execJnc (addr : Word) (s : State) : Result := jumpIf .nc addr s

/-- JC addr (R185): R181 with the condition CY = 1. -/
def execJc (addr : Word) (s : State) : Result := jumpIf .c addr s

/-- JPO addr (R186): R181 with the condition P = 0. -/
def execJpo (addr : Word) (s : State) : Result := jumpIf .po addr s

/-- JPE addr (R187): R181 with the condition P = 1. -/
def execJpe (addr : Word) (s : State) : Result := jumpIf .pe addr s

/-- JP addr (R188): R181 with the condition S = 0. -/
def execJp (addr : Word) (s : State) : Result := jumpIf .p addr s

/-- JM addr (R189): R181 with the condition S = 1. -/
def execJm (addr : Word) (s : State) : Result := jumpIf .m addr s

/-- CALL addr (R190): `push16(pc + 3); pc <- byte3 ∥ byte2`. -/
def execCall (addr : Word) (s : State) : Result := .next (callTo addr (s.pc + 3) s)

/-- CNZ addr (R192): R191 with the condition Z = 0. -/
def execCnz (addr : Word) (s : State) : Result := callIf .nz addr s

/-- CZ addr (R193): R191 with the condition Z = 1. -/
def execCz (addr : Word) (s : State) : Result := callIf .z addr s

/-- CNC addr (R194): R191 with the condition CY = 0. -/
def execCnc (addr : Word) (s : State) : Result := callIf .nc addr s

/-- CC addr (R195): R191 with the condition CY = 1. -/
def execCc (addr : Word) (s : State) : Result := callIf .c addr s

/-- CPO addr (R196): R191 with the condition P = 0. -/
def execCpo (addr : Word) (s : State) : Result := callIf .po addr s

/-- CPE addr (R197): R191 with the condition P = 1. -/
def execCpe (addr : Word) (s : State) : Result := callIf .pe addr s

/-- CP addr (R198): R191 with the condition S = 0. -/
def execCp (addr : Word) (s : State) : Result := callIf .p addr s

/-- CM addr (R199): R191 with the condition S = 1. -/
def execCm (addr : Word) (s : State) : Result := callIf .m addr s

/-- RET (R200): `pc <- pop16()`. -/
def execRet (s : State) : Result := .next (returnFrom s)

/-- RNZ (R202): R201 with the condition Z = 0. -/
def execRnz (s : State) : Result := returnIf .nz s

/-- RZ (R203): R201 with the condition Z = 1. -/
def execRz (s : State) : Result := returnIf .z s

/-- RNC (R204): R201 with the condition CY = 0. -/
def execRnc (s : State) : Result := returnIf .nc s

/-- RC (R205): R201 with the condition CY = 1. -/
def execRc (s : State) : Result := returnIf .c s

/-- RPO (R206): R201 with the condition P = 0. -/
def execRpo (s : State) : Result := returnIf .po s

/-- RPE (R207): R201 with the condition P = 1. -/
def execRpe (s : State) : Result := returnIf .pe s

/-- RP (R208): R201 with the condition S = 0. -/
def execRp (s : State) : Result := returnIf .p s

/-- RM (R209): R201 with the condition S = 1. -/
def execRm (s : State) : Result := returnIf .m s

/-- RST n (R210): `push16(pc + 1); pc <- zext_16(NNN) * 8`. -/
def execRst (n : BitVec 3) (s : State) : Result := .next (restart n (s.pc + 1) s)

/-- PCHL (R211): `pc <- H ∥ L`. -/
def execPchl (s : State) : Result := .next (s.setPc s.hl)

end Sys2Proof.Machine
end

