-- ==== Sys2Proof/Machine/DataTransfer.lean ====
section
/-! DEFINITION. The meanings of the data transfer instructions (40_data_transfer.md R100 to R111). None writes a flag. -/

namespace Sys2Proof.Machine

/-- MOV (R100, R101, R102): `Dst8(DDD, Src8(SSS)); pc <- pc + 1`. There is no MOV M,M (R81). -/
def execMov (dst src : Operand8) (s : State) : Result :=
  match dst, src with
  | .m, .m => .refused .noSuchInstruction
  | dst, src =>
    let v := src8 src s
    .next ((dst8 dst v.1 v.2).advance 1)

/-- MVI d,data8 (R103): `Dst8(DDD, byte2); pc <- pc + 2`. -/
def execMvi (dst : Operand8) (data : Byte) (s : State) : Result :=
  .next ((dst8 dst data s).advance 2)

/-- LXI rp,data16 (R104): `rp[RP] <- byte3 ∥ byte2; pc <- pc + 3`. -/
def execLxi (rp : RegPair) (data16 : Word) (s : State) : Result :=
  .next ((s.setPair rp data16).advance 3)

/-- LDA addr (R105): `A <- MemRead(byte3 ∥ byte2, 1); pc <- pc + 3`. -/
def execLda (addr : Word) (s : State) : Result :=
  let v := memRead addr s
  .next ((v.2.setReg .a v.1).advance 3)

/-- STA addr (R106): `MemWrite(byte3 ∥ byte2, 1, A); pc <- pc + 3`. -/
def execSta (addr : Word) (s : State) : Result :=
  .next ((memWrite addr s.a s).advance 3)

/-- LHLD addr (R107): `L <- MemRead(a, 1); H <- MemRead(a + 1, 1); pc <- pc + 3`. -/
def execLhld (addr : Word) (s : State) : Result :=
  let v := readTwo addr (addr + 1) s
  .next (((v.2.setReg .l v.1.1).setReg .h v.1.2).advance 3)

/-- SHLD addr (R108): `MemWrite(a, 1, L); MemWrite(a + 1, 1, H); pc <- pc + 3`. -/
def execShld (addr : Word) (s : State) : Result :=
  .next ((writeTwo addr s.l (addr + 1) s.h s).advance 3)

/-- LDAX rp (R109): `A <- MemRead(rp[RP], 1); pc <- pc + 1`. -/
def execLdax (rp : IndirectPair) (s : State) : Result :=
  let v := memRead (s.indirect rp) s
  .next ((v.2.setReg .a v.1).advance 1)

/-- STAX rp (R110): `MemWrite(rp[RP], 1, A); pc <- pc + 1`. -/
def execStax (rp : IndirectPair) (s : State) : Result :=
  .next ((memWrite (s.indirect rp) s.a s).advance 1)

/-- XCHG (R111): `(HL, DE) <- (DE, HL); pc <- pc + 1`, both from before the instruction. -/
def execXchg (s : State) : Result :=
  .next ({ s with h := s.d, d := s.h, l := s.e, e := s.l }.advance 1)

end Sys2Proof.Machine
end

