-- ==== Sys2Proof/Machine/Logical.lean ====
section
/-! DEFINITION. The meanings of the logical, compare, rotate and flag instructions (42_logical.md R150 to R164). -/

namespace Sys2Proof.Machine

/-- `A <- r; setZSP(r); CY <- 0; AC <- ac` (R150 to R155). -/
def State.logicResult (s : State) (r : Byte) (ac : Bool) : State := (s.setReg .a r).setFlags (logicFlags r ac)

/-- `A <- r; CY <- cy`, no other flag (R158 to R161). -/
def State.rotated (s : State) (r : Byte) (cy : Bool) : State := (s.setReg .a r).setCY cy

/-- ANA s (R150): A AND the operand; CY cleared; AC is `ANA_AC`, a free value (log entry 3); `pc <- pc + 1`. -/
def execAna (src : Operand8) (s : State) : Result :=
  let v := src8 src s
  .next ((v.2.drawn.logicResult (s.a &&& v.1) (Config.anaAC v.2.draws s.a v.1)).advance 1)

/-- ANI data8 (R151): A AND byte 2; CY and AC cleared; `pc <- pc + 2`. -/
def execAni (data : Byte) (s : State) : Result :=
  .next ((s.logicResult (s.a &&& data) false).advance 2)

/-- XRA s (R152): A XOR the operand; CY and AC cleared; `pc <- pc + 1`. -/
def execXra (src : Operand8) (s : State) : Result :=
  let v := src8 src s
  .next ((v.2.logicResult (s.a ^^^ v.1) false).advance 1)

/-- XRI data8 (R153): A XOR byte 2; CY and AC cleared; `pc <- pc + 2`. -/
def execXri (data : Byte) (s : State) : Result :=
  .next ((s.logicResult (s.a ^^^ data) false).advance 2)

/-- ORA s (R154): A OR the operand; CY and AC cleared; `pc <- pc + 1`. -/
def execOra (src : Operand8) (s : State) : Result :=
  let v := src8 src s
  .next ((v.2.logicResult (s.a ||| v.1) false).advance 1)

/-- ORI data8 (R155): A OR byte 2; CY and AC cleared; `pc <- pc + 2`. -/
def execOri (data : Byte) (s : State) : Result :=
  .next ((s.logicResult (s.a ||| data) false).advance 2)

/-- CMP s (R156): the five flags of `sub8(A, Src8(SSS), 0)`; A unchanged; `pc <- pc + 1`. -/
def execCmp (src : Operand8) (s : State) : Result :=
  let v := src8 src s
  .next ((v.2.setFlags (sub8 s.a v.1 false).flags).advance 1)

/-- CPI data8 (R157): the five flags of `sub8(A, byte2, 0)`; A unchanged; `pc <- pc + 2`. -/
def execCpi (data : Byte) (s : State) : Result :=
  .next ((s.setFlags (sub8 s.a data false).flags).advance 2)

/-- RLC (R158): `CY <- A[7]; A <- A[6:0] ∥ A[7]; pc <- pc + 1`. -/
def execRlc (s : State) : Result :=
  .next ((s.rotated (s.a.extractLsb' 0 7 ++ s.a.extractLsb' 7 1) (s.a.getLsbD 7)).advance 1)

/-- RRC (R159): `CY <- A[0]; A <- A[0] ∥ A[7:1]; pc <- pc + 1`. -/
def execRrc (s : State) : Result :=
  .next ((s.rotated (s.a.extractLsb' 0 1 ++ s.a.extractLsb' 1 7) (s.a.getLsbD 0)).advance 1)

/-- RAL (R160): `(CY, A) <- (A[7], A[6:0] ∥ CY); pc <- pc + 1`. -/
def execRal (s : State) : Result :=
  .next ((s.rotated (s.a.extractLsb' 0 7 ++ BitVec.ofBool s.flags.cy) (s.a.getLsbD 7)).advance 1)

/-- RAR (R161): `(CY, A) <- (A[0], CY ∥ A[7:1]); pc <- pc + 1`. -/
def execRar (s : State) : Result :=
  .next ((s.rotated (BitVec.ofBool s.flags.cy ++ s.a.extractLsb' 1 7) (s.a.getLsbD 0)).advance 1)

/-- CMA (R162): `A <- ~A; pc <- pc + 1`; no flag. -/
def execCma (s : State) : Result :=
  .next ((s.setReg .a (~~~s.a)).advance 1)

/-- CMC (R163): `CY <- 1 - CY; pc <- pc + 1`. -/
def execCmc (s : State) : Result :=
  .next ((s.setCY (!s.flags.cy)).advance 1)

/-- STC (R164): `CY <- 1; pc <- pc + 1`. -/
def execStc (s : State) : Result :=
  .next ((s.setCY true).advance 1)

end Sys2Proof.Machine
end

