-- ==== Sys2Proof/Machine/StackIoControl.lean ====
section
/-! DEFINITION. The meanings of the stack, input/output and machine control instructions (44_stack_io_control.md R220 to R231). -/

namespace Sys2Proof.Machine

/-- PUSH (R220 for a pair, R221 for A and the flags): two bytes below SP, SP lowered by 2; `pc <- pc + 1`. -/
def execPush (rp : StackPair) (s : State) : Result :=
  .next ((pushBytes (s.stackHigh rp) (s.stackLow rp) s).advance 1)

/-- POP (R222 for a pair, R223 for A and the flags): two bytes from SP, SP raised by 2; `pc <- pc + 1`. -/
def execPop (rp : StackPair) (s : State) : Result :=
  let v := popBytes s
  .next ((v.2.setStackPair rp v.1.2 v.1.1).advance 1)

/-- XTHL (R224): L exchanged with the byte at SP, H with the byte at SP + 1; SP unchanged; `pc <- pc + 1`. -/
def execXthl (s : State) : Result :=
  let v := exchangeTwo s.sp s.l (s.sp + 1) s.h s
  .next (((v.2.setReg .l v.1.1).setReg .h v.1.2).advance 1)

/-- SPHL (R225): `SP <- H ∥ L; pc <- pc + 1`. -/
def execSphl (s : State) : Result := .next ((s.setSP s.hl).advance 1)

/-- IN port (R226): `A <- IORead(byte2); pc <- pc + 2`. -/
def execIn (port : Byte) (s : State) : Result :=
  let v := ioRead port s
  .next ((v.2.setReg .a v.1).advance 2)

/-- OUT port (R227): `IOWrite(byte2, A); pc <- pc + 2`. -/
def execOut (port : Byte) (s : State) : Result := .next ((ioWrite port s.a s).advance 2)

/-- EI (R228): `ei_pending <- 1; pc <- pc + 1`. -/
def execEi (s : State) : Result := .next ({ s with eiPending := true }.advance 1)

/-- DI (R229): `inte <- 0; ei_pending <- 0; pc <- pc + 1`. -/
def execDi (s : State) : Result := .next ({ s with inte := false, eiPending := false }.advance 1)

/-- HLT (R230): `halted <- 1; pc <- pc + 1`. -/
def execHlt (s : State) : Result := .next ({ s with halted := true }.advance 1)

/-- NOP (R231): `pc <- pc + 1`. -/
def execNop (s : State) : Result := .next (s.advance 1)

end Sys2Proof.Machine
end

