-- ==== Sys2Proof/Machine/Dispatch.lean ====
section
/-! DEFINITION. The dispatch: one arm per instruction, in the order of 00_scope.md R2. -/

namespace Sys2Proof.Machine

/-- The effect of one instruction, its fetch and the bookkeeping at the end of the step apart (00_scope.md R9). -/
def exec (i : Instr) (s : State) : Host.Outcome State Fault Refusal :=
  match i with
  | .mov dst src => Sys2Proof.Machine.execMov dst src s
  | .mvi dst data => Sys2Proof.Machine.execMvi dst data s
  | .lxi rp data16 => Sys2Proof.Machine.execLxi rp data16 s
  | .lda addr => Sys2Proof.Machine.execLda addr s
  | .sta addr => Sys2Proof.Machine.execSta addr s
  | .lhld addr => Sys2Proof.Machine.execLhld addr s
  | .shld addr => Sys2Proof.Machine.execShld addr s
  | .ldax rp => Sys2Proof.Machine.execLdax rp s
  | .stax rp => Sys2Proof.Machine.execStax rp s
  | .xchg => Sys2Proof.Machine.execXchg s
  | .add src => Sys2Proof.Machine.execAdd src s
  | .adi data => Sys2Proof.Machine.execAdi data s
  | .adc src => Sys2Proof.Machine.execAdc src s
  | .aci data => Sys2Proof.Machine.execAci data s
  | .sub src => Sys2Proof.Machine.execSub src s
  | .sui data => Sys2Proof.Machine.execSui data s
  | .sbb src => Sys2Proof.Machine.execSbb src s
  | .sbi data => Sys2Proof.Machine.execSbi data s
  | .inr dst => Sys2Proof.Machine.execInr dst s
  | .dcr dst => Sys2Proof.Machine.execDcr dst s
  | .inx rp => Sys2Proof.Machine.execInx rp s
  | .dcx rp => Sys2Proof.Machine.execDcx rp s
  | .dad rp => Sys2Proof.Machine.execDad rp s
  | .daa => Sys2Proof.Machine.execDaa s
  | .ana src => Sys2Proof.Machine.execAna src s
  | .ani data => Sys2Proof.Machine.execAni data s
  | .xra src => Sys2Proof.Machine.execXra src s
  | .xri data => Sys2Proof.Machine.execXri data s
  | .ora src => Sys2Proof.Machine.execOra src s
  | .ori data => Sys2Proof.Machine.execOri data s
  | .cmp src => Sys2Proof.Machine.execCmp src s
  | .cpi data => Sys2Proof.Machine.execCpi data s
  | .rlc => Sys2Proof.Machine.execRlc s
  | .rrc => Sys2Proof.Machine.execRrc s
  | .ral => Sys2Proof.Machine.execRal s
  | .rar => Sys2Proof.Machine.execRar s
  | .cma => Sys2Proof.Machine.execCma s
  | .cmc => Sys2Proof.Machine.execCmc s
  | .stc => Sys2Proof.Machine.execStc s
  | .jmp addr => Sys2Proof.Machine.execJmp addr s
  | .jnz addr => Sys2Proof.Machine.execJnz addr s
  | .jz addr => Sys2Proof.Machine.execJz addr s
  | .jnc addr => Sys2Proof.Machine.execJnc addr s
  | .jc addr => Sys2Proof.Machine.execJc addr s
  | .jpo addr => Sys2Proof.Machine.execJpo addr s
  | .jpe addr => Sys2Proof.Machine.execJpe addr s
  | .jp addr => Sys2Proof.Machine.execJp addr s
  | .jm addr => Sys2Proof.Machine.execJm addr s
  | .call addr => Sys2Proof.Machine.execCall addr s
  | .cnz addr => Sys2Proof.Machine.execCnz addr s
  | .cz addr => Sys2Proof.Machine.execCz addr s
  | .cnc addr => Sys2Proof.Machine.execCnc addr s
  | .cc addr => Sys2Proof.Machine.execCc addr s
  | .cpo addr => Sys2Proof.Machine.execCpo addr s
  | .cpe addr => Sys2Proof.Machine.execCpe addr s
  | .cp addr => Sys2Proof.Machine.execCp addr s
  | .cm addr => Sys2Proof.Machine.execCm addr s
  | .ret => Sys2Proof.Machine.execRet s
  | .rnz => Sys2Proof.Machine.execRnz s
  | .rz => Sys2Proof.Machine.execRz s
  | .rnc => Sys2Proof.Machine.execRnc s
  | .rc => Sys2Proof.Machine.execRc s
  | .rpo => Sys2Proof.Machine.execRpo s
  | .rpe => Sys2Proof.Machine.execRpe s
  | .rp => Sys2Proof.Machine.execRp s
  | .rm => Sys2Proof.Machine.execRm s
  | .rst n => Sys2Proof.Machine.execRst n s
  | .pchl => Sys2Proof.Machine.execPchl s
  | .push rp => Sys2Proof.Machine.execPush rp s
  | .pop rp => Sys2Proof.Machine.execPop rp s
  | .xthl => Sys2Proof.Machine.execXthl s
  | .sphl => Sys2Proof.Machine.execSphl s
  | .inPort port => Sys2Proof.Machine.execIn port s
  | .outPort port => Sys2Proof.Machine.execOut port s
  | .ei => Sys2Proof.Machine.execEi s
  | .di => Sys2Proof.Machine.execDi s
  | .hlt => Sys2Proof.Machine.execHlt s
  | .nop => Sys2Proof.Machine.execNop s

end Sys2Proof.Machine
end

