-- ==== Sys2Proof/WellFormed.lean ====
section
/-! DEFINITION. Which terms of `Instr` are instructions of the machine. Every other restriction of the spec on operands is
carried by the operand types (LDAX and STAX take B or D only; PUSH and POP cannot name SP). -/

namespace Sys2Proof

/-- The one term that has no encoding is MOV with both operands M: "There is no memory-to-memory MOV" (30_encoding.md
R81; the byte 0x76 is HLT). -/
def Instr.wellFormed : Instr → Bool
  | .mov .m .m => false
  | _ => true

end Sys2Proof
end

