-- ==== Sys2Proof/Decode.lean ====
section
/-! DEFINITION. The decoder, the opcode table it reads, the encoder, and the reading of a table word
(30_encoding.md R70 to R84; spec/opcode_table.json). -/

namespace Sys2Proof

open Sys2Proof.Machine

/-- One row of the opcode table (R80): a first byte `b` matches when `(b & mask) = match` and `b` is not in `except`.
`build` makes the instruction from the first byte, byte 2 and byte 3, of which it reads what the row's format has. -/
structure OpcodeRow where
  mnemonic : String
  mask : Byte
  pattern : Byte
  except : List Byte
  length : Nat
  build : Byte → Byte → Byte → Instr

/-- R80: when a row matches a first byte. -/
def OpcodeRow.matchesByte (r : OpcodeRow) (b : Byte) : Bool :=
  (b &&& r.mask == r.pattern) && !r.except.contains b

/-- The rows of 40_data_transfer.md: mnemonic, mask, match, except, length, instruction. -/
def dataTransferRows : List OpcodeRow :=
  [
    ⟨"MOV", 0xC0#8, 0x40#8, [0x76#8], 1, fun b _ _ => .mov (operandOfCode (midField b)) (operandOfCode (lowField b))⟩,
    ⟨"MVI", 0xC7#8, 0x06#8, [], 2, fun b b2 _ => .mvi (operandOfCode (midField b)) b2⟩,
    ⟨"LXI", 0xCF#8, 0x01#8, [], 3, fun b b2 b3 => .lxi (regPairOfCode (pairField b)) (join b3 b2)⟩,
    ⟨"LDA", 0xFF#8, 0x3A#8, [], 3, fun _ b2 b3 => .lda (join b3 b2)⟩,
    ⟨"STA", 0xFF#8, 0x32#8, [], 3, fun _ b2 b3 => .sta (join b3 b2)⟩,
    ⟨"LHLD", 0xFF#8, 0x2A#8, [], 3, fun _ b2 b3 => .lhld (join b3 b2)⟩,
    ⟨"SHLD", 0xFF#8, 0x22#8, [], 3, fun _ b2 b3 => .shld (join b3 b2)⟩,
    ⟨"LDAX", 0xEF#8, 0x0A#8, [], 1, fun b _ _ => .ldax (indirectPairOfCode (pairField b))⟩,
    ⟨"STAX", 0xEF#8, 0x02#8, [], 1, fun b _ _ => .stax (indirectPairOfCode (pairField b))⟩,
    ⟨"XCHG", 0xFF#8, 0xEB#8, [], 1, fun _ _ _ => .xchg⟩
  ]

/-- The rows of 41_arithmetic.md: mnemonic, mask, match, except, length, instruction. -/
def arithmeticRows : List OpcodeRow :=
  [
    ⟨"ADD", 0xF8#8, 0x80#8, [], 1, fun b _ _ => .add (operandOfCode (lowField b))⟩,
    ⟨"ADC", 0xF8#8, 0x88#8, [], 1, fun b _ _ => .adc (operandOfCode (lowField b))⟩,
    ⟨"SUB", 0xF8#8, 0x90#8, [], 1, fun b _ _ => .sub (operandOfCode (lowField b))⟩,
    ⟨"SBB", 0xF8#8, 0x98#8, [], 1, fun b _ _ => .sbb (operandOfCode (lowField b))⟩,
    ⟨"ADI", 0xFF#8, 0xC6#8, [], 2, fun _ b2 _ => .adi b2⟩,
    ⟨"ACI", 0xFF#8, 0xCE#8, [], 2, fun _ b2 _ => .aci b2⟩,
    ⟨"SUI", 0xFF#8, 0xD6#8, [], 2, fun _ b2 _ => .sui b2⟩,
    ⟨"SBI", 0xFF#8, 0xDE#8, [], 2, fun _ b2 _ => .sbi b2⟩,
    ⟨"INR", 0xC7#8, 0x04#8, [], 1, fun b _ _ => .inr (operandOfCode (midField b))⟩,
    ⟨"DCR", 0xC7#8, 0x05#8, [], 1, fun b _ _ => .dcr (operandOfCode (midField b))⟩,
    ⟨"INX", 0xCF#8, 0x03#8, [], 1, fun b _ _ => .inx (regPairOfCode (pairField b))⟩,
    ⟨"DCX", 0xCF#8, 0x0B#8, [], 1, fun b _ _ => .dcx (regPairOfCode (pairField b))⟩,
    ⟨"DAD", 0xCF#8, 0x09#8, [], 1, fun b _ _ => .dad (regPairOfCode (pairField b))⟩,
    ⟨"DAA", 0xFF#8, 0x27#8, [], 1, fun _ _ _ => .daa⟩
  ]

/-- The rows of 42_logical.md: mnemonic, mask, match, except, length, instruction. -/
def logicalRows : List OpcodeRow :=
  [
    ⟨"ANA", 0xF8#8, 0xA0#8, [], 1, fun b _ _ => .ana (operandOfCode (lowField b))⟩,
    ⟨"XRA", 0xF8#8, 0xA8#8, [], 1, fun b _ _ => .xra (operandOfCode (lowField b))⟩,
    ⟨"ORA", 0xF8#8, 0xB0#8, [], 1, fun b _ _ => .ora (operandOfCode (lowField b))⟩,
    ⟨"CMP", 0xF8#8, 0xB8#8, [], 1, fun b _ _ => .cmp (operandOfCode (lowField b))⟩,
    ⟨"ANI", 0xFF#8, 0xE6#8, [], 2, fun _ b2 _ => .ani b2⟩,
    ⟨"XRI", 0xFF#8, 0xEE#8, [], 2, fun _ b2 _ => .xri b2⟩,
    ⟨"ORI", 0xFF#8, 0xF6#8, [], 2, fun _ b2 _ => .ori b2⟩,
    ⟨"CPI", 0xFF#8, 0xFE#8, [], 2, fun _ b2 _ => .cpi b2⟩,
    ⟨"RLC", 0xFF#8, 0x07#8, [], 1, fun _ _ _ => .rlc⟩,
    ⟨"RRC", 0xFF#8, 0x0F#8, [], 1, fun _ _ _ => .rrc⟩,
    ⟨"RAL", 0xFF#8, 0x17#8, [], 1, fun _ _ _ => .ral⟩,
    ⟨"RAR", 0xFF#8, 0x1F#8, [], 1, fun _ _ _ => .rar⟩,
    ⟨"CMA", 0xFF#8, 0x2F#8, [], 1, fun _ _ _ => .cma⟩,
    ⟨"CMC", 0xFF#8, 0x3F#8, [], 1, fun _ _ _ => .cmc⟩,
    ⟨"STC", 0xFF#8, 0x37#8, [], 1, fun _ _ _ => .stc⟩
  ]

/-- The rows of 43_branch.md: mnemonic, mask, match, except, length, instruction. -/
def branchRows : List OpcodeRow :=
  [
    ⟨"JMP", 0xFF#8, 0xC3#8, [], 3, fun _ b2 b3 => .jmp (join b3 b2)⟩,
    ⟨"JNZ", 0xFF#8, 0xC2#8, [], 3, fun _ b2 b3 => .jnz (join b3 b2)⟩,
    ⟨"JZ", 0xFF#8, 0xCA#8, [], 3, fun _ b2 b3 => .jz (join b3 b2)⟩,
    ⟨"JNC", 0xFF#8, 0xD2#8, [], 3, fun _ b2 b3 => .jnc (join b3 b2)⟩,
    ⟨"JC", 0xFF#8, 0xDA#8, [], 3, fun _ b2 b3 => .jc (join b3 b2)⟩,
    ⟨"JPO", 0xFF#8, 0xE2#8, [], 3, fun _ b2 b3 => .jpo (join b3 b2)⟩,
    ⟨"JPE", 0xFF#8, 0xEA#8, [], 3, fun _ b2 b3 => .jpe (join b3 b2)⟩,
    ⟨"JP", 0xFF#8, 0xF2#8, [], 3, fun _ b2 b3 => .jp (join b3 b2)⟩,
    ⟨"JM", 0xFF#8, 0xFA#8, [], 3, fun _ b2 b3 => .jm (join b3 b2)⟩,
    ⟨"CALL", 0xFF#8, 0xCD#8, [], 3, fun _ b2 b3 => .call (join b3 b2)⟩,
    ⟨"CNZ", 0xFF#8, 0xC4#8, [], 3, fun _ b2 b3 => .cnz (join b3 b2)⟩,
    ⟨"CZ", 0xFF#8, 0xCC#8, [], 3, fun _ b2 b3 => .cz (join b3 b2)⟩,
    ⟨"CNC", 0xFF#8, 0xD4#8, [], 3, fun _ b2 b3 => .cnc (join b3 b2)⟩,
    ⟨"CC", 0xFF#8, 0xDC#8, [], 3, fun _ b2 b3 => .cc (join b3 b2)⟩,
    ⟨"CPO", 0xFF#8, 0xE4#8, [], 3, fun _ b2 b3 => .cpo (join b3 b2)⟩,
    ⟨"CPE", 0xFF#8, 0xEC#8, [], 3, fun _ b2 b3 => .cpe (join b3 b2)⟩,
    ⟨"CP", 0xFF#8, 0xF4#8, [], 3, fun _ b2 b3 => .cp (join b3 b2)⟩,
    ⟨"CM", 0xFF#8, 0xFC#8, [], 3, fun _ b2 b3 => .cm (join b3 b2)⟩,
    ⟨"RET", 0xFF#8, 0xC9#8, [], 1, fun _ _ _ => .ret⟩,
    ⟨"RNZ", 0xFF#8, 0xC0#8, [], 1, fun _ _ _ => .rnz⟩,
    ⟨"RZ", 0xFF#8, 0xC8#8, [], 1, fun _ _ _ => .rz⟩,
    ⟨"RNC", 0xFF#8, 0xD0#8, [], 1, fun _ _ _ => .rnc⟩,
    ⟨"RC", 0xFF#8, 0xD8#8, [], 1, fun _ _ _ => .rc⟩,
    ⟨"RPO", 0xFF#8, 0xE0#8, [], 1, fun _ _ _ => .rpo⟩,
    ⟨"RPE", 0xFF#8, 0xE8#8, [], 1, fun _ _ _ => .rpe⟩,
    ⟨"RP", 0xFF#8, 0xF0#8, [], 1, fun _ _ _ => .rp⟩,
    ⟨"RM", 0xFF#8, 0xF8#8, [], 1, fun _ _ _ => .rm⟩,
    ⟨"RST", 0xC7#8, 0xC7#8, [], 1, fun b _ _ => .rst (midField b)⟩,
    ⟨"PCHL", 0xFF#8, 0xE9#8, [], 1, fun _ _ _ => .pchl⟩
  ]

/-- The rows of 44_stack_io_control.md: mnemonic, mask, match, except, length, instruction. -/
def stackIoControlRows : List OpcodeRow :=
  [
    ⟨"PUSH", 0xCF#8, 0xC5#8, [], 1, fun b _ _ => .push (stackPairOfCode (pairField b))⟩,
    ⟨"POP", 0xCF#8, 0xC1#8, [], 1, fun b _ _ => .pop (stackPairOfCode (pairField b))⟩,
    ⟨"XTHL", 0xFF#8, 0xE3#8, [], 1, fun _ _ _ => .xthl⟩,
    ⟨"SPHL", 0xFF#8, 0xF9#8, [], 1, fun _ _ _ => .sphl⟩,
    ⟨"IN", 0xFF#8, 0xDB#8, [], 2, fun _ b2 _ => .inPort b2⟩,
    ⟨"OUT", 0xFF#8, 0xD3#8, [], 2, fun _ b2 _ => .outPort b2⟩,
    ⟨"EI", 0xFF#8, 0xFB#8, [], 1, fun _ _ _ => .ei⟩,
    ⟨"DI", 0xFF#8, 0xF3#8, [], 1, fun _ _ _ => .di⟩,
    ⟨"HLT", 0xFF#8, 0x76#8, [], 1, fun _ _ _ => .hlt⟩,
    ⟨"NOP", 0xFF#8, 0x00#8, [], 1, fun _ _ _ => .nop⟩
  ]

/-- The 78 rows of the opcode table, family by family (R2, R80). -/
def opcodeTable : List OpcodeRow :=
  dataTransferRows ++ arithmeticRows ++ logicalRows ++ branchRows ++ stackIoControlRows

/-- The row of a first byte: the first that matches. No two rows match one byte (R80), so the order is of no account. -/
def rowOf (b : Byte) : Option OpcodeRow := opcodeTable.find? (fun r => r.matchesByte b)

/-- The length of an instruction, from its first byte alone (R79); none for the 12 undefined bytes (R82). -/
def instrLength (b : Byte) : Option Nat := (rowOf b).map OpcodeRow.length

/-- Why a list of bytes is no instruction. -/
inductive DecodeError where
  /-- No byte at all. -/
  | noBytes
  /-- The first byte is one of the 12 values no definition of the source covers (R82). -/
  | undefinedOpcode (b : Byte)
  /-- The list ends before the byte 2 or byte 3 that the first byte calls for (R71, R79). -/
  | truncated (b : Byte)
  deriving DecidableEq, Repr

/-- R71, R80: the instruction that stands at the head of a list of bytes, and the bytes after it. -/
def decode : List Byte → Except DecodeError (Instr × List Byte)
  | [] => .error .noBytes
  | b :: rest =>
    match rowOf b with
    | none => .error (.undefinedOpcode b)
    | some row =>
      match row.length, rest with
      | 1, rest => .ok (row.build b 0 0, rest)
      | 2, b2 :: rest => .ok (row.build b b2 0, rest)
      | 3, b2 :: b3 :: rest => .ok (row.build b b2 b3, rest)
      | _, _ => .error (.truncated b)

/-- R72, R78: an 8-bit first byte followed by a 16-bit operand, low-order byte first. -/
def withOperand16 (b : Byte) (v : Word) : List Byte := [b, lowByte v, highByte v]

/-- The bytes of an instruction, from the formats of R72 and the field codes of R74, R75, R77. (For MOV M,M, which is not
well-formed, the pattern gives 0x76, which is HLT.) -/
def encode : Instr → List Byte
  | .mov dst src => [0b01#2 ++ codeOfOperand dst ++ codeOfOperand src]
  | .mvi dst data => [0b00#2 ++ codeOfOperand dst ++ 0b110#3, data]
  | .lxi rp data16 => withOperand16 (0b00#2 ++ codeOfRegPair rp ++ 0b0001#4) data16
  | .lda addr => withOperand16 0x3A#8 addr
  | .sta addr => withOperand16 0x32#8 addr
  | .lhld addr => withOperand16 0x2A#8 addr
  | .shld addr => withOperand16 0x22#8 addr
  | .ldax rp => [0b00#2 ++ codeOfIndirectPair rp ++ 0b1010#4]
  | .stax rp => [0b00#2 ++ codeOfIndirectPair rp ++ 0b0010#4]
  | .xchg => [0xEB#8]
  | .add src => [0b10000#5 ++ codeOfOperand src]
  | .adc src => [0b10001#5 ++ codeOfOperand src]
  | .sub src => [0b10010#5 ++ codeOfOperand src]
  | .sbb src => [0b10011#5 ++ codeOfOperand src]
  | .adi data => [0xC6#8, data]
  | .aci data => [0xCE#8, data]
  | .sui data => [0xD6#8, data]
  | .sbi data => [0xDE#8, data]
  | .inr dst => [0b00#2 ++ codeOfOperand dst ++ 0b100#3]
  | .dcr dst => [0b00#2 ++ codeOfOperand dst ++ 0b101#3]
  | .inx rp => [0b00#2 ++ codeOfRegPair rp ++ 0b0011#4]
  | .dcx rp => [0b00#2 ++ codeOfRegPair rp ++ 0b1011#4]
  | .dad rp => [0b00#2 ++ codeOfRegPair rp ++ 0b1001#4]
  | .daa => [0x27#8]
  | .ana src => [0b10100#5 ++ codeOfOperand src]
  | .xra src => [0b10101#5 ++ codeOfOperand src]
  | .ora src => [0b10110#5 ++ codeOfOperand src]
  | .cmp src => [0b10111#5 ++ codeOfOperand src]
  | .ani data => [0xE6#8, data]
  | .xri data => [0xEE#8, data]
  | .ori data => [0xF6#8, data]
  | .cpi data => [0xFE#8, data]
  | .rlc => [0x07#8]
  | .rrc => [0x0F#8]
  | .ral => [0x17#8]
  | .rar => [0x1F#8]
  | .cma => [0x2F#8]
  | .cmc => [0x3F#8]
  | .stc => [0x37#8]
  | .jmp addr => withOperand16 0xC3#8 addr
  | .jnz addr => withOperand16 0xC2#8 addr
  | .jz addr => withOperand16 0xCA#8 addr
  | .jnc addr => withOperand16 0xD2#8 addr
  | .jc addr => withOperand16 0xDA#8 addr
  | .jpo addr => withOperand16 0xE2#8 addr
  | .jpe addr => withOperand16 0xEA#8 addr
  | .jp addr => withOperand16 0xF2#8 addr
  | .jm addr => withOperand16 0xFA#8 addr
  | .call addr => withOperand16 0xCD#8 addr
  | .cnz addr => withOperand16 0xC4#8 addr
  | .cz addr => withOperand16 0xCC#8 addr
  | .cnc addr => withOperand16 0xD4#8 addr
  | .cc addr => withOperand16 0xDC#8 addr
  | .cpo addr => withOperand16 0xE4#8 addr
  | .cpe addr => withOperand16 0xEC#8 addr
  | .cp addr => withOperand16 0xF4#8 addr
  | .cm addr => withOperand16 0xFC#8 addr
  | .ret => [0xC9#8]
  | .rnz => [0xC0#8]
  | .rz => [0xC8#8]
  | .rnc => [0xD0#8]
  | .rc => [0xD8#8]
  | .rpo => [0xE0#8]
  | .rpe => [0xE8#8]
  | .rp => [0xF0#8]
  | .rm => [0xF8#8]
  | .rst n => [0b11#2 ++ n ++ 0b111#3]
  | .pchl => [0xE9#8]
  | .push rp => [0b11#2 ++ codeOfStackPair rp ++ 0b0101#4]
  | .pop rp => [0b11#2 ++ codeOfStackPair rp ++ 0b0001#4]
  | .xthl => [0xE3#8]
  | .sphl => [0xF9#8]
  | .inPort port => [0xDB#8, port]
  | .outPort port => [0xD3#8, port]
  | .ei => [0xFB#8]
  | .di => [0xF3#8]
  | .hlt => [0x76#8]
  | .nop => [0x00#8]

/-- The bytes of a table word: bit 0 is the least significant bit of the first byte, the second byte is bits 15..8, the
third bits 23..16; every bit from `nbits` up is 0. -/
def tableBytes (nbits w : Nat) : List Byte :=
  let v := w % 2 ^ nbits
  [BitVec.ofNat 8 v, BitVec.ofNat 8 (v / 256), BitVec.ofNat 8 (v / 65536)]

/-- The instruction the decoder reads from a table word; none where it refuses. -/
def decodeTableWord (nbits w : Nat) : Option Instr :=
  match decode (tableBytes nbits w) with
  | .ok (i, _) => some i
  | .error _ => none

end Sys2Proof
end

