-- ==== Sys2Proof/Machine/Fetch.lean ====
section
/-! DEFINITION. The fetch of an instruction (00_scope.md R9; 30_encoding.md R71, R79, R80; 20_memory.md R55, R63), and the
placing of one by the host. -/

namespace Sys2Proof.Machine

/-- The bytes of an instruction after its first, for its length (R71, R79): byte 2 at pc + 1, byte 3 at pc + 2. -/
def readOperandBytes (length : Nat) (s : State) : List Byte × State :=
  match length with
  | 2 =>
    let v := memRead (s.pc + 1) s
    ([v.1], v.2)
  | 3 =>
    let v := readTwo (s.pc + 1) (s.pc + 2) s
    ([v.1.1, v.1.2], v.2)
  | _ => ([], s)

/-- R9, R80, R82: the first byte read at pc, decoded, its operand bytes read. An undefined first byte is the model-level
fault of R241. -/
def fetch (s : State) : Except Fault (Instr × State) :=
  let op := memRead s.pc s
  match instrLength op.1 with
  | none => .error (.undefinedOpcode s.pc op.1)
  | some n =>
    let operands := readOperandBytes n op.2
    match decode (op.1 :: operands.1) with
    | .ok (i, _) => .ok (i, operands.2)
    | .error _ => .error (.undefinedOpcode s.pc op.1)

/-- What happens at the boundary before the coming step (60_exceptions.md R244): the head of the list, or nothing. -/
def State.boundaryNow (s : State) : Boundary := s.boundaries.headD Boundary.quiet

/-- The state past that boundary (log entry 5). -/
def State.pastBoundary (s : State) : State := { s with boundaries := s.boundaries.tail }

/-- One byte put into memory by the host at an address, whatever `MEMMAP` says of it (70_reset_and_hazards.md R272). -/
def State.poke (s : State) (a : Word) (v : Byte) : State := { s with mem := Memory.write s.mem a.toNat v }

/-- The address made RAM, if it is not backed by memory already. -/
def State.backing (s : State) (a : Word) : State :=
  if s.backed a then s else { s with memmap := { first := a.toNat, last := a.toNat, kind := .ram } :: s.memmap }

/-- The state in which the next step fetches and runs the instruction of a table word: its bytes at pc, pc + 1 and pc + 2,
those addresses backed by memory, the processor not stopped and nothing happening at the coming boundary (log entry 13). -/
def State.placeInstruction (s : State) (nbits w : Nat) : State :=
  let v := w % 2 ^ nbits
  let s1 := (((s.backing s.pc).backing (s.pc + 1)).backing (s.pc + 2))
  let s2 := ((s1.poke s.pc (BitVec.ofNat 8 v)).poke (s.pc + 1) (BitVec.ofNat 8 (v / 256))).poke (s.pc + 2)
    (BitVec.ofNat 8 (v / 65536))
  { s2 with halted := false, boundaries := match s.boundaries with
      | [] => []
      | _ :: rest => Boundary.quiet :: rest }

end Sys2Proof.Machine
end

