-- ==== Sys2Proof/Machine/Cycle.lean ====
section
/-! DEFINITION. One step of the machine (00_scope.md R9; 60_exceptions.md R243 to R248; 70_reset_and_hazards.md R270). -/

namespace Sys2Proof.Machine

/-- R9: one instruction fetched from memory, performed, and the interrupt-enable bookkeeping of R243 after it. -/
def performInstruction (s : State) : Result :=
  match fetch s with
  | .error f => .fault f
  | .ok (i, t) =>
    match exec i t with
    | .next u => .next (endOfStep i u)
    | .fault f => .fault f
    | .refused r => .refused r

/-- What the processor does when nothing is accepted at the boundary (R248): an instruction; or, while `halted` = 1, nothing,
waiting if `inte` = 1, with no next state if `inte` = 0. -/
def proceed (s : State) : Result :=
  if s.halted then
    if s.inte then .next s else .fault .stopped
  else performInstruction s

/-- One boundary and what follows it: reset wins over a request (R247 (d)); a request is accepted if `inte` = 1 (R245), also
while stopped, and before anything is fetched (R247 (e)); else the processor proceeds, and the request is not latched
(R244). -/
def cycle (s : State) : Result :=
  let t := s.pastBoundary
  if s.boundaryNow.reset then .next t.resetEvent
  else
    match s.boundaryNow.request with
    | none => proceed t
    | some b => if s.inte then acceptInterrupt b t else proceed t

end Sys2Proof.Machine
end

