-- ==== Sys2Proof/Machine/Step.lean ====
section
/-! DEFINITION. The step, and the state in which the next step runs a given instruction. -/

namespace Sys2Proof.Machine

/-- One step (00_scope.md R9): a reset, an acceptance, a wait, or one instruction. -/
def step (s : State) : Host.Outcome State Fault Refusal := cycle s

/-- `s` with the instruction whose bits are `w` stored where `step` fetches its next instruction (log entry 13). -/
def State.withFetchWord (s : State) (nbits w : Nat) : State := s.placeInstruction nbits w

end Sys2Proof.Machine
end

