-- ==== Sys2Proof/Safety.lean ====
section
/-! DEFINITION. The terms the statements use: the invariant, and the spec's own tables of what each instruction may write
(10_state.md R36, R37; 20_memory.md R66), written from those tables and not from the meanings. -/

namespace Sys2Proof.Safety

open Sys2Proof.Machine

/-- The invariant of the machine: memory is in canonical form, and no enable is pending while the processor is stopped
(60_exceptions.md R243, R248: the bookkeeping runs at the end of the HLT step). -/
def Inv (s : State) : Prop :=
  Memory.wf s.mem = true ∧ (s.halted = true → s.eiPending = false)

/-- The five condition flags by name (R24). -/
inductive Flag where
  | z | s | p | cy | ac
  deriving DecidableEq, Repr

/-- The value of a flag. -/
def flagOf (f : Flags) : Flag → Bool
  | .z => f.z
  | .s => f.s
  | .p => f.p
  | .cy => f.cy
  | .ac => f.ac

/-- R36: the flags each instruction writes. -/
def flagsWritten : Instr → List Flag
  | .add _ | .adi _ | .adc _ | .aci _ | .sub _ | .sui _ | .sbb _ | .sbi _ | .daa => [.z, .s, .p, .cy, .ac]
  | .inr _ | .dcr _ => [.z, .s, .p, .ac]
  | .dad _ => [.cy]
  | .ana _ | .ani _ | .xra _ | .xri _ | .ora _ | .ori _ => [.z, .s, .p, .cy, .ac]
  | .cmp _ | .cpi _ => [.z, .s, .p, .cy, .ac]
  | .rlc | .rrc | .ral | .rar | .cmc | .stc => [.cy]
  | .pop rp => if rp = .psw then [.z, .s, .p, .cy, .ac] else []
  | .mov _ _ | .mvi _ _ | .lxi _ _ | .lda _ | .sta _ | .lhld _ | .shld _ | .ldax _ | .stax _ | .xchg | .inx _ | .dcx _
  | .cma | .jmp _ | .jnz _ | .jz _ | .jnc _ | .jc _ | .jpo _ | .jpe _ | .jp _ | .jm _ | .call _ | .cnz _ | .cz _
  | .cnc _ | .cc _ | .cpo _ | .cpe _ | .cp _ | .cm _ | .ret | .rnz | .rz | .rnc | .rc | .rpo | .rpe | .rp | .rm
  | .rst _ | .pchl | .push _ | .xthl | .sphl | .inPort _ | .outPort _ | .ei | .di | .hlt | .nop => []

/-- The register an operand code names, if it names one (R74). -/
def operandRegs : Operand8 → List Reg
  | .reg r => [r]
  | .m => []

/-- The registers of a pair (R21); SP is none of the seven. -/
def pairRegs : RegPair → List Reg
  | .b => [.b, .c]
  | .d => [.d, .e]
  | .h => [.h, .l]
  | .sp => []

/-- The registers POP writes (R222, R223). -/
def stackPairRegs : StackPair → List Reg
  | .b => [.b, .c]
  | .d => [.d, .e]
  | .h => [.h, .l]
  | .psw => [.a]

/-- R37: the 8-bit registers each instruction writes. -/
def regsWritten : Instr → List Reg
  | .mov dst _ | .mvi dst _ | .inr dst | .dcr dst => operandRegs dst
  | .lxi rp _ | .inx rp | .dcx rp => pairRegs rp
  | .lda _ | .ldax _ => [.a]
  | .lhld _ | .dad _ | .xthl => [.h, .l]
  | .xchg => [.d, .e, .h, .l]
  | .add _ | .adi _ | .adc _ | .aci _ | .sub _ | .sui _ | .sbb _ | .sbi _ | .daa | .ana _ | .ani _ | .xra _ | .xri _
  | .ora _ | .ori _ => [.a]
  | .rlc | .rrc | .ral | .rar | .cma | .inPort _ => [.a]
  | .pop rp => stackPairRegs rp
  | .sta _ | .shld _ | .stax _ | .cmp _ | .cpi _ | .cmc | .stc | .jmp _ | .jnz _ | .jz _ | .jnc _ | .jc _ | .jpo _
  | .jpe _ | .jp _ | .jm _ | .call _ | .cnz _ | .cz _ | .cnc _ | .cc _ | .cpo _ | .cpe _ | .cp _ | .cm _ | .ret | .rnz
  | .rz | .rnc | .rc | .rpo | .rpe | .rp | .rm | .rst _ | .pchl | .push _ | .sphl | .outPort _ | .ei | .di | .hlt
  | .nop => []

/-- R77: when each condition is true, written from the rule's table. -/
def condTrue (cond : Cond) (f : Flags) : Bool :=
  match cond with
  | .nz => f.z == false
  | .z => f.z == true
  | .nc => f.cy == false
  | .c => f.cy == true
  | .po => f.p == false
  | .pe => f.p == true
  | .p => f.s == false
  | .m => f.s == true

/-- R77: the code CCC of each condition. -/
def codeOfCond : Cond → BitVec 3
  | .nz => 0b000#3
  | .z => 0b001#3
  | .nc => 0b010#3
  | .c => 0b011#3
  | .po => 0b100#3
  | .pe => 0b101#3
  | .p => 0b110#3
  | .m => 0b111#3

/-- The conditional jump with a condition (R182 to R189). -/
def jumpOf : Cond → Word → Instr
  | .nz => .jnz
  | .z => .jz
  | .nc => .jnc
  | .c => .jc
  | .po => .jpo
  | .pe => .jpe
  | .p => .jp
  | .m => .jm

/-- The conditional call with a condition (R192 to R199). -/
def callOf : Cond → Word → Instr
  | .nz => .cnz
  | .z => .cz
  | .nc => .cnc
  | .c => .cc
  | .po => .cpo
  | .pe => .cpe
  | .p => .cp
  | .m => .cm

/-- The conditional return with a condition (R202 to R209). -/
def returnOf : Cond → Instr
  | .nz => .rnz
  | .z => .rz
  | .nc => .rnc
  | .c => .rc
  | .po => .rpo
  | .pe => .rpe
  | .p => .rp
  | .m => .rm

/-- The condition of a conditional jump, call or return (R77). -/
def conditionOf : Instr → Option Cond
  | .jnz _ | .cnz _ | .rnz => some .nz
  | .jz _ | .cz _ | .rz => some .z
  | .jnc _ | .cnc _ | .rnc => some .nc
  | .jc _ | .cc _ | .rc => some .c
  | .jpo _ | .cpo _ | .rpo => some .po
  | .jpe _ | .cpe _ | .rpe => some .pe
  | .jp _ | .cp _ | .rp => some .p
  | .jm _ | .cm _ | .rm => some .m
  | .mov _ _ | .mvi _ _ | .lxi _ _ | .lda _ | .sta _ | .lhld _ | .shld _ | .ldax _ | .stax _ | .xchg | .add _ | .adi _
  | .adc _ | .aci _ | .sub _ | .sui _ | .sbb _ | .sbi _ | .inr _ | .dcr _ | .inx _ | .dcx _ | .dad _ | .daa | .ana _
  | .ani _ | .xra _ | .xri _ | .ora _ | .ori _ | .cmp _ | .cpi _ | .rlc | .rrc | .ral | .rar | .cma | .cmc | .stc
  | .jmp _ | .call _ | .ret | .rst _ | .pchl | .push _ | .pop _ | .xthl | .sphl | .inPort _ | .outPort _ | .ei | .di
  | .hlt | .nop => none

/-- Whether an instruction's condition holds; an instruction without one goes ahead. -/
def taken (i : Instr) (f : Flags) : Bool :=
  match conditionOf i with
  | some cond => condTrue cond f
  | none => true

/-- R22, R37: what each instruction does to SP: its new value, from the state before. -/
def spAfter (i : Instr) (s : State) : Word :=
  match i with
  | .lxi rp v => if rp = .sp then v else s.sp
  | .inx rp => if rp = .sp then s.sp + 1 else s.sp
  | .dcx rp => if rp = .sp then s.sp - 1 else s.sp
  | .sphl => join s.h s.l
  | .call _ | .rst _ | .push _ => s.sp - 2
  | .cnz _ | .cz _ | .cnc _ | .cc _ | .cpo _ | .cpe _ | .cp _ | .cm _ => if taken i s.flags then s.sp - 2 else s.sp
  | .ret | .pop _ => s.sp + 2
  | .rnz | .rz | .rnc | .rc | .rpo | .rpe | .rp | .rm => if taken i s.flags then s.sp + 2 else s.sp
  | .mov _ _ | .mvi _ _ | .lda _ | .sta _ | .lhld _ | .shld _ | .ldax _ | .stax _ | .xchg | .add _ | .adi _ | .adc _
  | .aci _ | .sub _ | .sui _ | .sbb _ | .sbi _ | .inr _ | .dcr _ | .dad _ | .daa | .ana _ | .ani _ | .xra _ | .xri _
  | .ora _ | .ori _ | .cmp _ | .cpi _ | .rlc | .rrc | .ral | .rar | .cma | .cmc | .stc | .jmp _ | .jnz _ | .jz _
  | .jnc _ | .jc _ | .jpo _ | .jpe _ | .jp _ | .jm _ | .pchl | .xthl | .inPort _ | .outPort _ | .ei | .di | .hlt
  | .nop => s.sp

/-- The operand is the memory byte at HL. -/
def operandAddress (o : Operand8) (s : State) : List Word :=
  match o with
  | .m => [join s.h s.l]
  | .reg _ => []

/-- The address of LDAX and STAX: BC or DE (R109, R110). -/
def indirectAddress (rp : IndirectPair) (s : State) : Word :=
  match rp with
  | .b => join s.b s.c
  | .d => join s.d s.e

/-- R66: the addresses each instruction reads as data. -/
def loadAddresses (i : Instr) (s : State) : List Word :=
  match i with
  | .mov _ src | .add src | .adc src | .sub src | .sbb src | .ana src | .xra src | .ora src
  | .cmp src => operandAddress src s
  | .inr dst | .dcr dst => operandAddress dst s
  | .lda addr => [addr]
  | .lhld addr => [addr, addr + 1]
  | .ldax rp => [indirectAddress rp s]
  | .ret | .pop _ | .xthl => [s.sp, s.sp + 1]
  | .rnz | .rz | .rnc | .rc | .rpo | .rpe | .rp | .rm => if taken i s.flags then [s.sp, s.sp + 1] else []
  | .mvi _ _ | .lxi _ _ | .sta _ | .shld _ | .stax _ | .xchg | .adi _ | .aci _ | .sui _ | .sbi _ | .inx _ | .dcx _
  | .dad _ | .daa | .ani _ | .xri _ | .ori _ | .cpi _ | .rlc | .rrc | .ral | .rar | .cma | .cmc | .stc | .jmp _
  | .jnz _ | .jz _ | .jnc _ | .jc _ | .jpo _ | .jpe _ | .jp _ | .jm _ | .call _ | .cnz _ | .cz _ | .cnc _ | .cc _
  | .cpo _ | .cpe _ | .cp _ | .cm _ | .rst _ | .pchl | .push _ | .sphl | .inPort _ | .outPort _ | .ei | .di | .hlt
  | .nop => []

/-- R66: the addresses each instruction writes as data. -/
def storeAddresses (i : Instr) (s : State) : List Word :=
  match i with
  | .mov dst _ | .mvi dst _ | .inr dst | .dcr dst => operandAddress dst s
  | .sta addr => [addr]
  | .shld addr => [addr, addr + 1]
  | .stax rp => [indirectAddress rp s]
  | .call _ | .rst _ | .push _ => [s.sp - 1, s.sp - 2]
  | .cnz _ | .cz _ | .cnc _ | .cc _ | .cpo _ | .cpe _ | .cp _
  | .cm _ => if taken i s.flags then [s.sp - 1, s.sp - 2] else []
  | .xthl => [s.sp, s.sp + 1]
  | .lxi _ _ | .lda _ | .lhld _ | .ldax _ | .xchg | .add _ | .adi _ | .adc _ | .aci _ | .sub _ | .sui _ | .sbb _
  | .sbi _ | .inx _ | .dcx _ | .dad _ | .daa | .ana _ | .ani _ | .xra _ | .xri _ | .ora _ | .ori _ | .cmp _ | .cpi _
  | .rlc | .rrc | .ral | .rar | .cma | .cmc | .stc | .jmp _ | .jnz _ | .jz _ | .jnc _ | .jc _ | .jpo _ | .jpe _
  | .jp _ | .jm _ | .ret | .rnz | .rz | .rnc | .rc | .rpo | .rpe | .rp | .rm | .pchl | .pop _ | .sphl | .inPort _
  | .outPort _ | .ei | .di | .hlt | .nop => []

/-! ## The vocabulary of the statements -/

/-- The first byte and the bytes after it decode to `i`, whatever bytes follow (R71, R80). -/
def Spells (i : Instr) (bytes : List Byte) : Prop := ∀ rest, decode (bytes ++ rest) = .ok (i, rest)

/-- The bytes stand at pc and the following addresses (modulo 2^16), all of them backed by memory (R58, R71). -/
def StandsAtPc (s : State) (bytes : List Byte) : Prop :=
  ∀ k (hk : k < bytes.length), s.backed (s.pc + BitVec.ofNat 16 k) = true ∧ s.peek (s.pc + BitVec.ofNat 16 k) = bytes[k]

/-- Nothing is accepted at the coming boundary and the processor is not stopped: the next step performs an instruction. -/
def Proceeds (s : State) : Prop :=
  s.boundaryNow.reset = false ∧ (s.boundaryNow.request = none ∨ s.inte = false) ∧ s.halted = false

/-- R25: the number of 1 bits is even. -/
def evenOnes (v : Byte) : Bool := decide ((List.range 8).countP (fun k => v.getLsbD k) % 2 = 0)

/-- R25 in numbers, with CY and AC given: Z, S and P of an 8-bit result. -/
def resultFlags (r : Byte) (cy ac : Bool) : Flags :=
  { z := decide (r.toNat = 0), s := decide (128 ≤ r.toNat), p := evenOnes r, cy := cy, ac := ac }

/-- R26 in numbers: A and the flags after `a + v + c`, pc past `len` bytes, all else as in `t`. -/
def sumInA (t : State) (a v : Byte) (c : Bool) (len : Word) : State :=
  { t with
    a := BitVec.ofNat 8 (a.toNat + v.toNat + c.toNat)
    flags := resultFlags (BitVec.ofNat 8 (a.toNat + v.toNat + c.toNat))
      (decide (256 ≤ a.toNat + v.toNat + c.toNat)) (decide (16 ≤ a.toNat % 16 + v.toNat % 16 + c.toNat))
    pc := t.pc + len }

/-- R27 in numbers: the flags after `a - v - c`. -/
def differenceFlags (a v : Byte) (c : Bool) : Flags :=
  resultFlags (BitVec.ofNat 8 (a.toNat + 256 - v.toNat - c.toNat))
    (decide (a.toNat < v.toNat + c.toNat)) (decide (v.toNat % 16 + c.toNat ≤ a.toNat % 16))

/-- R27 in numbers: A and the flags after `a - v - c`, pc past `len` bytes, all else as in `t`. -/
def differenceInA (t : State) (a v : Byte) (c : Bool) (len : Word) : State :=
  { t with
    a := BitVec.ofNat 8 (a.toNat + 256 - v.toNat - c.toNat)
    flags := differenceFlags a v c
    pc := t.pc + len }

/-- A logical result in A with CY and AC cleared, pc past `len` bytes, all else as in `t` (R151 to R155). -/
def logicInA (t : State) (r : Byte) (len : Word) : State :=
  { t with a := r, flags := resultFlags r false false, pc := t.pc + len }

/-- Two bytes that are two decimal digits each: the number they stand for, 0 to 99 (R133). -/
def bcd (n : Nat) : Byte := BitVec.ofNat 8 (16 * (n / 10) + n % 10)

/-- The instruction and then DAA leave the number `n`, at most 199, as two decimal digits in A and a hundred in CY. -/
def LeavesDecimal (s : State) (i : Instr) (n : Nat) : Prop :=
  ∃ t u, exec i s = .next t ∧ exec .daa t = .next u ∧ u.a = bcd (n % 100) ∧ (u.flags.cy = true ↔ 100 ≤ n)

end Sys2Proof.Safety
end

