-- ==== Sys2Proof/Certificates/Slice0/Obligations.lean ====
section
/-! DEFINITION. The statements for the provers. Each names in its docstring the rules it formalises. The equations give the
whole next state, so each is its own frame: what an equation does not name is as before. `OBLIGATIONS.json` lists them. -/

open Sys2Proof Sys2Proof.Machine Sys2Proof.Safety

/-! ## Encoding -/

/-- R71 to R84: the bytes the encoder writes for a well-formed instruction decode to it, with every operand at every value,
and leave the bytes that follow. -/
def Obligations.DecodeOfEncodeIsIdentity : Prop :=
  ∀ i : Instr, i.wellFormed = true → ∀ rest, decode (encode i ++ rest) = .ok (i, rest)

/-- R71 to R84, the other direction: whatever decodes is well-formed and is exactly what the encoder writes. -/
def Obligations.EncodeOfDecodeIsIdentity : Prop :=
  ∀ bytes i rest, decode bytes = .ok (i, rest) → i.wellFormed = true ∧ bytes = encode i ++ rest

/-- R80, R81, R82: a first byte matches no row of the opcode table if it is one of the 12 undefined values, and exactly one
row otherwise. -/
def Obligations.FirstByteMatchesAtMostOneRow : Prop :=
  ∀ b : Byte, (opcodeTable.filter (fun row => row.matchesByte b)).length =
    if b ∈ [0x08#8, 0x10#8, 0x18#8, 0x20#8, 0x28#8, 0x30#8, 0x38#8, 0xCB#8, 0xD9#8, 0xDD#8, 0xED#8, 0xFD#8] then 0 else 1

/-- R79: the length of an instruction is a function of its first byte alone, by the rule's table; the 12 undefined values
(R82) have none. -/
def Obligations.LengthFollowsFirstByte : Prop :=
  ∀ b : Byte, instrLength b =
    if b ∈ [0x08#8, 0x10#8, 0x18#8, 0x20#8, 0x28#8, 0x30#8, 0x38#8, 0xCB#8, 0xD9#8, 0xDD#8, 0xED#8, 0xFD#8] then none
    else if b &&& 0xCF#8 = 0x01#8 ∨ b ∈ [0x22#8, 0x2A#8, 0x32#8, 0x3A#8, 0xC3#8, 0xCD#8] ∨ b &&& 0xC7#8 = 0xC2#8 ∨
      b &&& 0xC7#8 = 0xC4#8 then some 3
    else if b &&& 0xC7#8 = 0x06#8 ∨ b &&& 0xC7#8 = 0xC6#8 ∨ b = 0xDB#8 ∨ b = 0xD3#8 then some 2
    else some 1

/-- R84: a few words written out from the opcode map decode to the instructions they stand for. -/
def Obligations.WrittenWordsDecode : Prop :=
  decode [0x6E#8] = .ok (.mov (.reg .l) .m, []) ∧
  decode [0x31#8, 0x00#8, 0x24#8] = .ok (.lxi .sp 0x2400#16, []) ∧
  decode [0x9B#8] = .ok (.sbb (.reg .e), []) ∧
  decode [0xFE#8, 0x40#8] = .ok (.cpi 0x40#8, []) ∧
  decode [0xEA#8, 0x34#8, 0x12#8] = .ok (.jpe 0x1234#16, []) ∧
  decode [0xF5#8] = .ok (.push .psw, []) ∧
  decode [0x76#8] = .ok (.hlt, [])

/-! ## Registers, operands, memory -/

/-- R20, R21: a register holds what is written to it and no other register changes; a pair is its two registers, the
high-order one first, and writing it writes them and nothing else. -/
def Obligations.RegistersAndPairsHoldWhatIsWritten : Prop :=
  ∀ (s : State) (v : Byte) (w : Word),
    (∀ r q : Reg, (s.setReg r v).reg q = if q = r then v else s.reg q) ∧
    (s.pair .b).toNat = 256 * s.b.toNat + s.c.toNat ∧
    (s.pair .d).toNat = 256 * s.d.toNat + s.e.toNat ∧
    (s.pair .h).toNat = 256 * s.h.toNat + s.l.toNat ∧
    s.setPair .b w = { s with b := w.extractLsb' 8 8, c := w.extractLsb' 0 8 } ∧
    s.setPair .d w = { s with d := w.extractLsb' 8 8, e := w.extractLsb' 0 8 } ∧
    s.setPair .h w = { s with h := w.extractLsb' 8 8, l := w.extractLsb' 0 8 } ∧
    s.setPair .sp w = { s with sp := w } ∧
    (∀ rp : RegPair, (s.setPair rp w).pair rp = w)

/-- R74, R75, R76: what each of the eight codes SSS or DDD reads and writes (110 is the memory byte at HL), and which pair
each of the four codes RP names in LXI, INX, DCX and DAD, in LDAX and STAX, and in PUSH and POP. The codes are those the spec
adopts, log entry 11. -/
def Obligations.OperandCodesNameTheirOperands : Prop :=
  ∀ (s : State) (v w : Byte),
    src8 (operandOfCode 0b000#3) s = (s.b, s) ∧ dst8 (operandOfCode 0b000#3) v s = { s with b := v } ∧
    src8 (operandOfCode 0b001#3) s = (s.c, s) ∧ dst8 (operandOfCode 0b001#3) v s = { s with c := v } ∧
    src8 (operandOfCode 0b010#3) s = (s.d, s) ∧ dst8 (operandOfCode 0b010#3) v s = { s with d := v } ∧
    src8 (operandOfCode 0b011#3) s = (s.e, s) ∧ dst8 (operandOfCode 0b011#3) v s = { s with e := v } ∧
    src8 (operandOfCode 0b100#3) s = (s.h, s) ∧ dst8 (operandOfCode 0b100#3) v s = { s with h := v } ∧
    src8 (operandOfCode 0b101#3) s = (s.l, s) ∧ dst8 (operandOfCode 0b101#3) v s = { s with l := v } ∧
    src8 (operandOfCode 0b110#3) s = memRead (join s.h s.l) s ∧
    dst8 (operandOfCode 0b110#3) v s = memWrite (join s.h s.l) v s ∧
    src8 (operandOfCode 0b111#3) s = (s.a, s) ∧ dst8 (operandOfCode 0b111#3) v s = { s with a := v } ∧
    s.pair (regPairOfCode 0b00#2) = s.b ++ s.c ∧ s.pair (regPairOfCode 0b01#2) = s.d ++ s.e ∧
    s.pair (regPairOfCode 0b10#2) = s.h ++ s.l ∧ s.pair (regPairOfCode 0b11#2) = s.sp ∧
    s.setPair (regPairOfCode 0b00#2) (v ++ w) = { s with b := v, c := w } ∧
    s.setPair (regPairOfCode 0b01#2) (v ++ w) = { s with d := v, e := w } ∧
    s.setPair (regPairOfCode 0b10#2) (v ++ w) = { s with h := v, l := w } ∧
    s.setPair (regPairOfCode 0b11#2) (v ++ w) = { s with sp := v ++ w } ∧
    s.indirect (indirectPairOfCode 0b00#2) = s.b ++ s.c ∧ s.indirect (indirectPairOfCode 0b01#2) = s.d ++ s.e ∧
    s.setStackPair (stackPairOfCode 0b00#2) v w = { s with b := v, c := w } ∧
    s.setStackPair (stackPairOfCode 0b01#2) v w = { s with d := v, e := w } ∧
    s.setStackPair (stackPairOfCode 0b10#2) v w = { s with h := v, l := w } ∧
    s.setStackPair (stackPairOfCode 0b11#2) v w = { s with a := v, flags := pswUnpack w }

/-- R51 for RAM: a read returns the value of the most recent write to that address, a write leaves every other address
alone, a read changes nothing; the canonical form of memory is kept. -/
def Obligations.ReadReturnsMostRecentWrite : Prop :=
  ∀ (s : State) (x : Word) (v : Byte), Memory.wf s.mem = true → s.kindAt x = .ram →
    memRead x (memWrite x v s) = (v, memWrite x v s) ∧
    (∀ y, y ≠ x → (memWrite x v s).peek y = s.peek y) ∧
    (∀ y, y ≠ x → s.backed y = true → memRead y (memWrite x v s) = (s.peek y, memWrite x v s)) ∧
    Memory.wf (memWrite x v s).mem = true

/-- R58, R65 (the reads of nothing and of devices are free values, log entries 4 and 7): what an access does at each of the
four kinds of address. Which kind an address has is the model's form of `MEMMAP` (log entry 6): the first region that holds
the address says, and an address that no region holds is RAM. -/
def Obligations.MemoryMapGovernsAccess : Prop :=
  ∀ (s : State) (x : Word) (v : Byte),
    (s.kindAt x = .rom → memRead x s = (s.peek x, s) ∧ memWrite x v s = s) ∧
    (s.kindAt x = .nothing → memWrite x v s = s ∧ (memRead x s).2 = { s with draws := s.draws + 1 }) ∧
    (s.kindAt x = .device →
      memWrite x v s = { s with events := s.events ++ [.output (.device x) v] } ∧
      (memRead x s).2 =
        { s with answers := s.answers.tail, events := s.events ++ [.input (.device x) (memRead x s).1] } ∧
      (∀ w ws, s.answers = w :: ws → (memRead x s).1 = w)) ∧
    (∀ (before after : List Region) (r : Region), s.memmap = before ++ r :: after →
      (∀ q ∈ before, x.toNat < q.first ∨ q.last < x.toNat) → r.first ≤ x.toNat → x.toNat ≤ r.last → s.kindAt x = r.kind) ∧
    ((∀ q ∈ s.memmap, x.toNat < q.first ∨ q.last < x.toNat) → s.kindAt x = .ram)

/-- R55, R66: unless both addresses have a device, two accesses of one instruction are one after the other in R66's order. -/
def Obligations.AccessOrderFollowsTable : Prop :=
  ∀ (s : State) (x y : Word) (vx vy : Byte), ¬ (s.kindAt x = .device ∧ s.kindAt y = .device) →
    readTwo x y s =
      (((memRead x s).1, (memRead y (memRead x s).2).1), (memRead y (memRead x s).2).2) ∧
    writeTwo x vx y vy s = memWrite y vy (memWrite x vx s) ∧
    exchangeTwo x vx y vy s =
      (((memRead x s).1, (memRead y (memRead x s).2).1),
        memWrite y vy (memWrite x vx (memRead y (memRead x s).2).2))

/-! ## Data transfer -/

/-- R100, R101, R102: MOV in its three forms. -/
def Obligations.MovCopiesOperand : Prop :=
  ∀ (s : State) (r q : Reg),
    Spells (.mov (.reg r) (.reg q)) [0b01#2 ++ codeOfOperand (.reg r) ++ codeOfOperand (.reg q)] ∧
    Spells (.mov (.reg r) .m) [0b01#2 ++ codeOfOperand (.reg r) ++ 0b110#3] ∧
    Spells (.mov .m (.reg q)) [0b01#2 ++ 0b110#3 ++ codeOfOperand (.reg q)] ∧
    exec (.mov (.reg r) (.reg q)) s = .next { s.setReg r (s.reg q) with pc := s.pc + 1 } ∧
    exec (.mov (.reg r) .m) s =
      .next { (memRead (join s.h s.l) s).2.setReg r (memRead (join s.h s.l) s).1 with pc := s.pc + 1 } ∧
    exec (.mov .m (.reg q)) s = .next { memWrite (join s.h s.l) (s.reg q) s with pc := s.pc + 1 }

/-- R103, R104: MVI and LXI; the codes in the bytes are those the spec adopts (R74, R75, log entry 11). -/
def Obligations.ImmediatesLoadOperand : Prop :=
  ∀ (s : State) (r : Reg) (data : Byte) (b3 b2 : Byte),
    Spells (.mvi (.reg r) data) [0b00#2 ++ codeOfOperand (.reg r) ++ 0b110#3, data] ∧
    Spells (.mvi .m data) [0x36#8, data] ∧
    exec (.mvi (.reg r) data) s = .next { s.setReg r data with pc := s.pc + 2 } ∧
    exec (.mvi .m data) s = .next { memWrite (join s.h s.l) data s with pc := s.pc + 2 } ∧
    Spells (.lxi .b (b3 ++ b2)) [0x01#8, b2, b3] ∧ Spells (.lxi .d (b3 ++ b2)) [0x11#8, b2, b3] ∧
    Spells (.lxi .h (b3 ++ b2)) [0x21#8, b2, b3] ∧ Spells (.lxi .sp (b3 ++ b2)) [0x31#8, b2, b3] ∧
    exec (.lxi .b (b3 ++ b2)) s = .next { s with b := b3, c := b2, pc := s.pc + 3 } ∧
    exec (.lxi .d (b3 ++ b2)) s = .next { s with d := b3, e := b2, pc := s.pc + 3 } ∧
    exec (.lxi .h (b3 ++ b2)) s = .next { s with h := b3, l := b2, pc := s.pc + 3 } ∧
    exec (.lxi .sp (b3 ++ b2)) s = .next { s with sp := b3 ++ b2, pc := s.pc + 3 }

/-- R105 to R108: LDA, STA, LHLD, SHLD. That byte 3 is the high-order half of the address is an inference the spec marks as its
own (R78, 90_conflicts.md C4), and so is the wrap of the succeeding address (R54). -/
def Obligations.DirectTransfersUseBytesTwoAndThree : Prop :=
  ∀ (s : State) (b3 b2 : Byte) (addr : Word), addr = b3 ++ b2 →
    Spells (.lda addr) [0x3A#8, b2, b3] ∧
    Spells (.sta addr) [0x32#8, b2, b3] ∧
    Spells (.lhld addr) [0x2A#8, b2, b3] ∧
    Spells (.shld addr) [0x22#8, b2, b3] ∧
    exec (.lda addr) s = .next { (memRead addr s).2 with a := (memRead addr s).1, pc := s.pc + 3 } ∧
    exec (.sta addr) s = .next { memWrite addr s.a s with pc := s.pc + 3 } ∧
    exec (.lhld addr) s =
      .next { (readTwo addr (addr + 1) s).2 with
        l := (readTwo addr (addr + 1) s).1.1, h := (readTwo addr (addr + 1) s).1.2, pc := s.pc + 3 } ∧
    exec (.shld addr) s = .next { writeTwo addr s.l (addr + 1) s.h s with pc := s.pc + 3 }

/-- R109, R110, R111: LDAX, STAX, XCHG. The pair code in the bytes (R75) and B and D as the high-order registers of their pairs
(R21) are adopted by the spec, log entry 11. -/
def Obligations.PairTransfersUsePairAddress : Prop :=
  ∀ (s : State),
    Spells (.ldax .b) [0x0A#8] ∧ Spells (.ldax .d) [0x1A#8] ∧ Spells (.stax .b) [0x02#8] ∧ Spells (.stax .d) [0x12#8] ∧
    Spells .xchg [0xEB#8] ∧
    exec (.ldax .b) s =
      .next { (memRead (join s.b s.c) s).2 with a := (memRead (join s.b s.c) s).1, pc := s.pc + 1 } ∧
    exec (.ldax .d) s =
      .next { (memRead (join s.d s.e) s).2 with a := (memRead (join s.d s.e) s).1, pc := s.pc + 1 } ∧
    exec (.stax .b) s = .next { memWrite (join s.b s.c) s.a s with pc := s.pc + 1 } ∧
    exec (.stax .d) s = .next { memWrite (join s.d s.e) s.a s with pc := s.pc + 1 } ∧
    exec .xchg s = .next { s with h := s.d, l := s.e, d := s.h, e := s.l, pc := s.pc + 1 }

/-- R52, R54, R107, R108: on RAM, SHLD puts L at the address and H at the succeeding one (modulo 2^16), changes no other
byte, and an LHLD of the address then gives HL back whatever it was in between. -/
def Obligations.ShldThenLhldRestoresHL : Prop :=
  ∀ (s : State) (addr : Word) (h' l' : Byte), Memory.wf s.mem = true → s.kindAt addr = .ram → s.kindAt (addr + 1) = .ram →
    ∃ t u, exec (.shld addr) s = .next t ∧ t.peek addr = s.l ∧ t.peek (addr + 1) = s.h ∧
      (∀ x, x ≠ addr → x ≠ addr + 1 → t.peek x = s.peek x) ∧
      exec (.lhld addr) { t with h := h', l := l' } = .next u ∧ u.h = s.h ∧ u.l = s.l ∧ u.mem = t.mem

/-! ## Arithmetic -/

/-- R120 to R123, by R25 and R26 in numbers: ADD, ADI, ADC, ACI. -/
def Obligations.AdditionsWriteSumAndFlags : Prop :=
  ∀ (s : State) (src : Operand8) (data : Byte),
    Spells (.add src) [0b10000#5 ++ codeOfOperand src] ∧ Spells (.adi data) [0xC6#8, data] ∧
    Spells (.adc src) [0b10001#5 ++ codeOfOperand src] ∧ Spells (.aci data) [0xCE#8, data] ∧
    exec (.add src) s = .next (sumInA (src8 src s).2 s.a (src8 src s).1 false 1) ∧
    exec (.adi data) s = .next (sumInA s s.a data false 2) ∧
    exec (.adc src) s = .next (sumInA (src8 src s).2 s.a (src8 src s).1 s.flags.cy 1) ∧
    exec (.aci data) s = .next (sumInA s s.a data s.flags.cy 2)

/-- R124 to R127, by R25 and R27 in numbers: SUB, SUI, SBB, SBI. -/
def Obligations.SubtractionsWriteDifferenceAndFlags : Prop :=
  ∀ (s : State) (src : Operand8) (data : Byte),
    Spells (.sub src) [0b10010#5 ++ codeOfOperand src] ∧ Spells (.sui data) [0xD6#8, data] ∧
    Spells (.sbb src) [0b10011#5 ++ codeOfOperand src] ∧ Spells (.sbi data) [0xDE#8, data] ∧
    exec (.sub src) s = .next (differenceInA (src8 src s).2 s.a (src8 src s).1 false 1) ∧
    exec (.sui data) s = .next (differenceInA s s.a data false 2) ∧
    exec (.sbb src) s = .next (differenceInA (src8 src s).2 s.a (src8 src s).1 s.flags.cy 1) ∧
    exec (.sbi data) s = .next (differenceInA s s.a data s.flags.cy 2)

/-- R128, R129 in numbers: INR and DCR, on a register and on the memory byte at HL; CY keeps its value. -/
def Obligations.IncrementDecrementKeepCarry : Prop :=
  ∀ (s : State) (dst : Operand8) (v : Byte) (t : State), src8 dst s = (v, t) →
    Spells (.inr dst) [0b00#2 ++ codeOfOperand dst ++ 0b100#3] ∧
    Spells (.dcr dst) [0b00#2 ++ codeOfOperand dst ++ 0b101#3] ∧
    exec (.inr dst) s =
      .next { dst8 dst (BitVec.ofNat 8 (v.toNat + 1)) t with
        flags := resultFlags (BitVec.ofNat 8 (v.toNat + 1)) s.flags.cy (decide (v.toNat % 16 = 15))
        pc := s.pc + 1 } ∧
    exec (.dcr dst) s =
      .next { dst8 dst (BitVec.ofNat 8 (v.toNat + 255)) t with
        flags := resultFlags (BitVec.ofNat 8 (v.toNat + 255)) s.flags.cy (decide (v.toNat % 16 ≠ 0))
        pc := s.pc + 1 }

/-- R130, R131: INX and DCX step a pair, modulo 2^16 (R54), and write no flag. The pair codes (R75) and the order of the pairs B
and D (R21) are adopted by the spec, log entry 11. -/
def Obligations.PairStepsWrap : Prop :=
  ∀ (s : State) (rp : RegPair),
    Spells (.inx .b) [0x03#8] ∧ Spells (.inx .d) [0x13#8] ∧ Spells (.inx .h) [0x23#8] ∧ Spells (.inx .sp) [0x33#8] ∧
    Spells (.dcx .b) [0x0B#8] ∧ Spells (.dcx .d) [0x1B#8] ∧ Spells (.dcx .h) [0x2B#8] ∧ Spells (.dcx .sp) [0x3B#8] ∧
    exec (.inx rp) s = .next { s.setPair rp (BitVec.ofNat 16 ((s.pair rp).toNat + 1)) with pc := s.pc + 1 } ∧
    exec (.dcx rp) s = .next { s.setPair rp (BitVec.ofNat 16 ((s.pair rp).toNat + 65535)) with pc := s.pc + 1 }

/-- R132 in numbers: DAD adds a pair to HL; CY is the carry out of bit 15 and the only flag written. The pair codes (R75) and the
order of the pairs B and D (R21) are adopted by the spec, log entry 11. -/
def Obligations.DadAddsPairIntoHL : Prop :=
  ∀ (s : State) (rp : RegPair),
    Spells (.dad .b) [0x09#8] ∧ Spells (.dad .d) [0x19#8] ∧ Spells (.dad .h) [0x29#8] ∧ Spells (.dad .sp) [0x39#8] ∧
    ∃ t, exec (.dad rp) s = .next t ∧
      256 * t.h.toNat + t.l.toNat = (256 * s.h.toNat + s.l.toNat + (s.pair rp).toNat) % 65536 ∧
      t.flags.cy = decide (65536 ≤ 256 * s.h.toNat + s.l.toNat + (s.pair rp).toNat) ∧
      t = { s with h := t.h, l := t.l, flags := { s.flags with cy := t.flags.cy }, pc := s.pc + 1 }

/-- R133 in numbers: DAA, with the carry of step 1 feeding step 2. -/
def Obligations.DaaAdjustsInTwoSteps : Prop :=
  ∀ (s : State) (a1 : Nat) (step2 : Bool),
    let sum := s.a.toNat + (if 9 < s.a.toNat % 16 ∨ s.flags.ac = true then 6 else 0)
    a1 = sum % 256 → (step2 = true ↔ 9 < a1 / 16 ∨ s.flags.cy = true ∨ 256 ≤ sum) →
    Spells .daa [0x27#8] ∧
    exec .daa s =
      .next { s with
        a := BitVec.ofNat 8 (a1 + (if step2 = true then 0x60 else 0))
        flags := resultFlags (BitVec.ofNat 8 (a1 + (if step2 = true then 0x60 else 0))) step2 (decide (9 < s.a.toNat % 16))
        pc := s.pc + 1 }

/-- The stated purpose of DAA (90_conflicts.md C7, 92_eei_decisions.md D24): after the addition of two bytes of two decimal
digits, by ADD, ADI, ADC or ACI, it leaves the two digits of the sum in A and the hundred in CY. -/
def Obligations.DaaAfterAdditionGivesDecimalSum : Prop :=
  ∀ (s : State) (x y : Nat), x < 100 → y < 100 → s.a = bcd x →
    LeavesDecimal s (.adi (bcd y)) (x + y) ∧ LeavesDecimal s (.aci (bcd y)) (x + y + s.flags.cy.toNat) ∧
    ∀ src : Operand8, (src8 src s).1 = bcd y →
      LeavesDecimal s (.add src) (x + y) ∧ LeavesDecimal s (.adc src) (x + y + s.flags.cy.toNat)

/-! ## Logical, compare, rotate, flags -/

/-- R150: ANA. Z, S, P from the result, CY cleared; AC is `ANA_AC`, a free value (log entry 3), of which the statement says
nothing but that it is a function of the draw counter and the two operands. -/
def Obligations.AnaClearsCarryAndLeavesAuxCarryOpen : Prop :=
  ∀ (s : State) (src : Operand8),
    Spells (.ana src) [0b10100#5 ++ codeOfOperand src] ∧
    ∃ t, exec (.ana src) s = .next t ∧
      t = { (src8 src s).2 with
        a := s.a &&& (src8 src s).1
        flags := resultFlags (s.a &&& (src8 src s).1) false t.flags.ac
        draws := (src8 src s).2.draws + 1
        pc := s.pc + 1 }

/-- R151 to R155: ANI, XRA, XRI, ORA, ORI. Z, S, P from the result, CY and AC cleared. -/
def Obligations.LogicalsClearCarryAndAuxCarry : Prop :=
  ∀ (s : State) (src : Operand8) (data : Byte),
    Spells (.ani data) [0xE6#8, data] ∧ Spells (.xra src) [0b10101#5 ++ codeOfOperand src] ∧
    Spells (.xri data) [0xEE#8, data] ∧ Spells (.ora src) [0b10110#5 ++ codeOfOperand src] ∧
    Spells (.ori data) [0xF6#8, data] ∧
    exec (.ani data) s = .next (logicInA s (s.a &&& data) 2) ∧
    exec (.xra src) s = .next (logicInA (src8 src s).2 (s.a ^^^ (src8 src s).1) 1) ∧
    exec (.xri data) s = .next (logicInA s (s.a ^^^ data) 2) ∧
    exec (.ora src) s = .next (logicInA (src8 src s).2 (s.a ||| (src8 src s).1) 1) ∧
    exec (.ori data) s = .next (logicInA s (s.a ||| data) 2)

/-- R156, R157: CMP and CPI write the flags of the subtraction and leave A; Z says equal, CY says below, unsigned. -/
def Obligations.ComparesOrderUnsigned : Prop :=
  ∀ (s : State) (src : Operand8) (data : Byte),
    Spells (.cmp src) [0b10111#5 ++ codeOfOperand src] ∧ Spells (.cpi data) [0xFE#8, data] ∧
    exec (.cmp src) s =
      .next { (src8 src s).2 with flags := differenceFlags s.a (src8 src s).1 false, pc := s.pc + 1 } ∧
    exec (.cpi data) s = .next { s with flags := differenceFlags s.a data false, pc := s.pc + 2 } ∧
    (∀ v : Byte, (differenceFlags s.a v false).z = decide (s.a = v) ∧
      (differenceFlags s.a v false).cy = decide (s.a.toNat < v.toNat))

/-- R158 to R161 in numbers: RLC, RRC, RAL, RAR write A and CY and nothing else but pc. -/
def Obligations.RotatesMoveBitsThroughCarry : Prop :=
  ∀ (s : State),
    Spells .rlc [0x07#8] ∧ Spells .rrc [0x0F#8] ∧ Spells .ral [0x17#8] ∧ Spells .rar [0x1F#8] ∧
    exec .rlc s =
      .next { s with
        a := BitVec.ofNat 8 (2 * s.a.toNat + s.a.toNat / 128)
        flags := { s.flags with cy := decide (128 ≤ s.a.toNat) }
        pc := s.pc + 1 } ∧
    exec .rrc s =
      .next { s with
        a := BitVec.ofNat 8 (s.a.toNat / 2 + 128 * (s.a.toNat % 2))
        flags := { s.flags with cy := decide (s.a.toNat % 2 = 1) }
        pc := s.pc + 1 } ∧
    exec .ral s =
      .next { s with
        a := BitVec.ofNat 8 (2 * s.a.toNat + s.flags.cy.toNat)
        flags := { s.flags with cy := decide (128 ≤ s.a.toNat) }
        pc := s.pc + 1 } ∧
    exec .rar s =
      .next { s with
        a := BitVec.ofNat 8 (s.a.toNat / 2 + 128 * s.flags.cy.toNat)
        flags := { s.flags with cy := decide (s.a.toNat % 2 = 1) }
        pc := s.pc + 1 }

/-- R159, R161, corner cases: RAR undoes RAL exactly, A and CY both, and RRC undoes RLC on A. -/
def Obligations.RightRotatesUndoLeftRotates : Prop :=
  ∀ (s : State),
    (∃ t u, exec .ral s = .next t ∧ exec .rar t = .next u ∧ u = { s with pc := s.pc + 2 }) ∧
    (∃ t u, exec .rlc s = .next t ∧ exec .rrc t = .next u ∧
      u = { s with pc := s.pc + 2, flags := { s.flags with cy := u.flags.cy } })

/-- R162, R163, R164: CMA, CMC, STC. -/
def Obligations.ComplementsWriteOnlyTheirTarget : Prop :=
  ∀ (s : State),
    Spells .cma [0x2F#8] ∧ Spells .cmc [0x3F#8] ∧ Spells .stc [0x37#8] ∧
    exec .cma s = .next { s with a := BitVec.ofNat 8 (255 - s.a.toNat), pc := s.pc + 1 } ∧
    exec .cmc s = .next { s with flags := { s.flags with cy := !s.flags.cy }, pc := s.pc + 1 } ∧
    exec .stc s = .next { s with flags := { s.flags with cy := true }, pc := s.pc + 1 }

/-! ## Branch -/

/-- R180, R211: JMP and PCHL. -/
def Obligations.JumpsWriteOnlyPc : Prop :=
  ∀ (s : State) (b3 b2 : Byte),
    Spells (.jmp (b3 ++ b2)) [0xC3#8, b2, b3] ∧ Spells .pchl [0xE9#8] ∧
    exec (.jmp (b3 ++ b2)) s = .next { s with pc := b3 ++ b2 } ∧
    exec .pchl s = .next { s with pc := s.h ++ s.l }

/-- R181 to R189 with R77: JNZ, JZ, JNC, JC, JPO, JPE, JP, JM. -/
def Obligations.ConditionalJumpsTestOneFlag : Prop :=
  ∀ (s : State) (cond : Cond) (b3 b2 : Byte),
    Spells (jumpOf cond (b3 ++ b2)) [0b11#2 ++ codeOfCond cond ++ 0b010#3, b2, b3] ∧
    exec (jumpOf cond (b3 ++ b2)) s =
      .next { s with pc := if condTrue cond s.flags = true then b3 ++ b2 else s.pc + 3 }

/-- R190 to R199 with R77: CALL, and CNZ, CZ, CNC, CC, CPO, CPE, CP, CM, which when untaken only go on. -/
def Obligations.CallsPushNextAddress : Prop :=
  ∀ (s : State) (cond : Cond) (b3 b2 : Byte) (next : Word) (called : State), next = s.pc + 3 →
    called = { writeTwo (s.sp - 1) (next.extractLsb' 8 8) (s.sp - 2) (next.extractLsb' 0 8) s with
      sp := s.sp - 2, pc := b3 ++ b2 } →
    Spells (.call (b3 ++ b2)) [0xCD#8, b2, b3] ∧
    Spells (callOf cond (b3 ++ b2)) [0b11#2 ++ codeOfCond cond ++ 0b100#3, b2, b3] ∧
    exec (.call (b3 ++ b2)) s = .next called ∧
    exec (callOf cond (b3 ++ b2)) s = .next (if condTrue cond s.flags = true then called else { s with pc := s.pc + 3 })

/-- R200 to R209 with R77: RET, and RNZ, RZ, RNC, RC, RPO, RPE, RP, RM, which when untaken only go on. -/
def Obligations.ReturnsPopPc : Prop :=
  ∀ (s : State) (cond : Cond) (lo hi : Byte) (t returned : State), readTwo s.sp (s.sp + 1) s = ((lo, hi), t) →
    returned = { t with sp := s.sp + 2, pc := hi ++ lo } →
    Spells .ret [0xC9#8] ∧ Spells (returnOf cond) [0b11#2 ++ codeOfCond cond ++ 0b000#3] ∧
    exec .ret s = .next returned ∧
    exec (returnOf cond) s = .next (if condTrue cond s.flags = true then returned else { s with pc := s.pc + 1 })

/-- R210: RST n pushes pc + 1 and goes to 8 * n. -/
def Obligations.RstCallsEightTimesN : Prop :=
  ∀ (s : State) (n : BitVec 3) (next : Word), next = s.pc + 1 →
    Spells (.rst n) [0b11#2 ++ n ++ 0b111#3] ∧
    exec (.rst n) s =
      .next { writeTwo (s.sp - 1) (next.extractLsb' 8 8) (s.sp - 2) (next.extractLsb' 0 8) s with
        sp := s.sp - 2, pc := BitVec.ofNat 16 (8 * n.toNat) }

/-- R52, R54, R56, R190, R200: with RAM below SP, a CALL stores the next instruction address high byte above low byte and no
other byte, and a RET from the state it leaves comes back to it with SP, the registers and the flags as before. -/
def Obligations.CallThenReturnComesBack : Prop :=
  ∀ (s : State) (target : Word), Memory.wf s.mem = true → s.kindAt (s.sp - 1) = .ram → s.kindAt (s.sp - 2) = .ram →
    ∃ t u, exec (.call target) s = .next t ∧ t.pc = target ∧
      256 * (t.peek (s.sp - 1)).toNat + (t.peek (s.sp - 2)).toNat = (s.pc.toNat + 3) % 65536 ∧
      (∀ x, x ≠ s.sp - 1 → x ≠ s.sp - 2 → t.peek x = s.peek x) ∧
      exec .ret t = .next u ∧ u = { s with pc := s.pc + 3, mem := t.mem }

/-! ## Stack, input and output, machine control -/

/-- R220, R221, R28: PUSH of a pair, and of A with the status word S Z 0 AC 0 P 1 CY. -/
def Obligations.PushStoresTwoBytes : Prop :=
  ∀ (s : State),
    Spells (.push .b) [0xC5#8] ∧ Spells (.push .d) [0xD5#8] ∧ Spells (.push .h) [0xE5#8] ∧ Spells (.push .psw) [0xF5#8] ∧
    exec (.push .b) s = .next { writeTwo (s.sp - 1) s.b (s.sp - 2) s.c s with sp := s.sp - 2, pc := s.pc + 1 } ∧
    exec (.push .d) s = .next { writeTwo (s.sp - 1) s.d (s.sp - 2) s.e s with sp := s.sp - 2, pc := s.pc + 1 } ∧
    exec (.push .h) s = .next { writeTwo (s.sp - 1) s.h (s.sp - 2) s.l s with sp := s.sp - 2, pc := s.pc + 1 } ∧
    (∃ w : Byte,
      exec (.push .psw) s = .next { writeTwo (s.sp - 1) s.a (s.sp - 2) w s with sp := s.sp - 2, pc := s.pc + 1 } ∧
      w.toNat = 128 * s.flags.s.toNat + 64 * s.flags.z.toNat + 16 * s.flags.ac.toNat + 4 * s.flags.p.toNat + 2 +
        s.flags.cy.toNat)

/-- R222, R223, R28: POP of a pair, and of A with the flags from bits 7, 6, 4, 2, 0 of the status word. -/
def Obligations.PopLoadsTwoBytes : Prop :=
  ∀ (s : State) (lo hi : Byte) (t : State), readTwo s.sp (s.sp + 1) s = ((lo, hi), t) →
    Spells (.pop .b) [0xC1#8] ∧ Spells (.pop .d) [0xD1#8] ∧ Spells (.pop .h) [0xE1#8] ∧ Spells (.pop .psw) [0xF1#8] ∧
    exec (.pop .b) s = .next { t with b := hi, c := lo, sp := s.sp + 2, pc := s.pc + 1 } ∧
    exec (.pop .d) s = .next { t with d := hi, e := lo, sp := s.sp + 2, pc := s.pc + 1 } ∧
    exec (.pop .h) s = .next { t with h := hi, l := lo, sp := s.sp + 2, pc := s.pc + 1 } ∧
    exec (.pop .psw) s =
      .next { t with
        a := hi
        flags :=
          { s := decide (lo.toNat / 128 % 2 = 1), z := decide (lo.toNat / 64 % 2 = 1),
            ac := decide (lo.toNat / 16 % 2 = 1), p := decide (lo.toNat / 4 % 2 = 1), cy := decide (lo.toNat % 2 = 1) }
        sp := s.sp + 2
        pc := s.pc + 1 }

/-- R28, R220 to R223: with RAM below SP, a PUSH and then the POP of the same name give back the pair, or A and all five
flags, whatever was in them in between, and SP. -/
def Obligations.PushThenPopRestores : Prop :=
  ∀ (s : State) (rp : StackPair) (hi lo : Byte), Memory.wf s.mem = true →
    s.kindAt (s.sp - 1) = .ram → s.kindAt (s.sp - 2) = .ram →
    ∃ t u, exec (.push rp) s = .next t ∧ (∀ x, x ≠ s.sp - 1 → x ≠ s.sp - 2 → t.peek x = s.peek x) ∧
      exec (.pop rp) (t.setStackPair rp hi lo) = .next u ∧ u = { s with pc := s.pc + 2, mem := t.mem }

/-- R224, R225: XTHL and SPHL. On memory-backed addresses XTHL puts the two old bytes in L and H; on RAM it stores the old L
and H there; SP is unchanged. -/
def Obligations.XthlExchangesAndSphlCopies : Prop :=
  ∀ (s : State) (olds : (Byte × Byte) × State), exchangeTwo s.sp s.l (s.sp + 1) s.h s = olds →
    Spells .xthl [0xE3#8] ∧ Spells .sphl [0xF9#8] ∧
    exec .xthl s = .next { olds.2 with l := olds.1.1, h := olds.1.2, pc := s.pc + 1 } ∧
    exec .sphl s = .next { s with sp := s.h ++ s.l, pc := s.pc + 1 } ∧
    (s.backed s.sp = true → s.backed (s.sp + 1) = true → olds.1 = (s.peek s.sp, s.peek (s.sp + 1))) ∧
    (Memory.wf s.mem = true → s.kindAt s.sp = .ram → s.kindAt (s.sp + 1) = .ram →
      olds.2.peek s.sp = s.l ∧ olds.2.peek (s.sp + 1) = s.h ∧
      (∀ x, x ≠ s.sp → x ≠ s.sp + 1 → olds.2.peek x = s.peek x))

/-- R65, R226, R227: IN takes the environment's answer (the next one lined up; where none is, a free value, log entry 4), OUT
hands A over; each is recorded as an event, and neither writes a flag or touches memory. -/
def Obligations.InAndOutAreEventsInOrder : Prop :=
  ∀ (s : State) (port : Byte),
    Spells (.inPort port) [0xDB#8, port] ∧ Spells (.outPort port) [0xD3#8, port] ∧
    (∃ t, exec (.inPort port) s = .next t ∧
      t = { s with
        a := t.a, events := s.events ++ [.input (.port port) t.a], answers := s.answers.tail, pc := s.pc + 2 } ∧
      (∀ v rest, s.answers = v :: rest → t.a = v)) ∧
    exec (.outPort port) s = .next { s with events := s.events ++ [.output (.port port) s.a], pc := s.pc + 2 }

/-- R228 to R231: EI, DI, HLT, NOP; the bookkeeping of R243 comes at the end of the step. -/
def Obligations.ControlInstructionsWriteControlBits : Prop :=
  ∀ (s : State),
    Spells .ei [0xFB#8] ∧ Spells .di [0xF3#8] ∧ Spells .hlt [0x76#8] ∧ Spells .nop [0x00#8] ∧
    exec .ei s = .next { s with eiPending := true, pc := s.pc + 1 } ∧
    exec .di s = .next { s with inte := false, eiPending := false, pc := s.pc + 1 } ∧
    exec .hlt s = .next { s with halted := true, pc := s.pc + 1 } ∧
    exec .nop s = .next { s with pc := s.pc + 1 }

/-! ## The step -/

/-- R9, R243: when the bytes at pc decode to an instruction (backed by memory, nothing accepted at the boundary, not
stopped), `exec` of it at the state past the boundary has a next state, and the step is that, followed by the bookkeeping: a
pending enable takes effect unless the instruction is EI or DI. -/
def Obligations.StepRunsDecodedInstruction : Prop :=
  ∀ (s : State) (bytes : List Byte) (i : Instr), Proceeds s → StandsAtPc s bytes → Spells i bytes →
    ∃ t, exec i { s with boundaries := s.boundaries.tail } = .next t ∧
      step s = .next (if t.eiPending = true ∧ i ≠ .ei ∧ i ≠ .di then { t with inte := true, eiPending := false } else t)

/-- R82, R241: an undefined first byte at pc is the model-level fault, whatever follows it. -/
def Obligations.UndefinedOpcodeFaults : Prop :=
  ∀ (s : State) (b : Byte), Proceeds s → StandsAtPc s [b] →
    b ∈ [0x08#8, 0x10#8, 0x18#8, 0x20#8, 0x28#8, 0x30#8, 0x38#8, 0xCB#8, 0xD9#8, 0xDD#8, 0xED#8, 0xFD#8] →
    step s = .fault (.undefinedOpcode s.pc b)

/-- R242, R245, R246, R249: a request with RST n, while `inte` = 1 and no reset comes, is accepted, stopped or not, without a
fetch: `inte`, `ei_pending`, `halted` cleared, pc pushed, control to 8 * n; no register, no flag, no other byte; the
acceptance is recorded as an event (the form of the record is the model's, log entry 5) before the two stack writes. -/
def Obligations.AcceptanceEntersHandler : Prop :=
  ∀ (s : State) (n : BitVec 3) (rest : List Boundary),
    s.boundaries = { reset := false, request := some (0b11#2 ++ n ++ 0b111#3) } :: rest → s.inte = true →
    ∃ t, step s = .next t ∧
      t = { s with
        inte := false, eiPending := false, halted := false, sp := s.sp - 2, pc := BitVec.ofNat 16 (8 * n.toNat),
        boundaries := rest, mem := t.mem, events := t.events, draws := t.draws } ∧
      (∀ x, x ≠ s.sp - 1 → x ≠ s.sp - 2 → t.peek x = s.peek x) ∧
      (Memory.wf s.mem = true → s.kindAt (s.sp - 1) = .ram → s.kindAt (s.sp - 2) = .ram →
        t.peek (s.sp - 1) = s.pc.extractLsb' 8 8 ∧ t.peek (s.sp - 2) = s.pc.extractLsb' 0 8) ∧
      s.events ++ [.interruptAccepted (0b11#2 ++ n ++ 0b111#3)] <+: t.events ∧
      (s.kindAt (s.sp - 1) ≠ .device → s.kindAt (s.sp - 2) ≠ .device →
        t.events = s.events ++ [.interruptAccepted (0b11#2 ++ n ++ 0b111#3)])

/-- R249, R250: after an acceptance, with RAM below SP, the handler's RET gives back pc and SP with every register and flag
as they were; `inte` stays 0, the acceptance is on record, and no byte of memory but the two stacked ones has changed. -/
def Obligations.HandlerReturnResumes : Prop :=
  ∀ (s : State) (n : BitVec 3) (rest : List Boundary),
    s.boundaries = { reset := false, request := some (0b11#2 ++ n ++ 0b111#3) } :: rest → s.inte = true →
    Memory.wf s.mem = true → s.kindAt (s.sp - 1) = .ram → s.kindAt (s.sp - 2) = .ram →
    ∃ t u, step s = .next t ∧ exec .ret t = .next u ∧
      u = { s with
        inte := false, eiPending := false, halted := false, boundaries := rest, mem := t.mem
        events := s.events ++ [.interruptAccepted (0b11#2 ++ n ++ 0b111#3)] } ∧
      (∀ x, x ≠ s.sp - 1 → x ≠ s.sp - 2 → u.peek x = s.peek x)

/-- R242, R244, R246: a request presented while `inte` = 0 is as if none were presented; one with a supplied byte that is not
RST n is refused by name. -/
def Obligations.RequestsIgnoredOrRefused : Prop :=
  ∀ (s : State) (b : Byte) (rest : List Boundary), s.boundaries = { reset := false, request := some b } :: rest →
    (s.inte = false → step s = step { s with boundaries := { reset := false, request := none } :: rest }) ∧
    (s.inte = true → (∀ n : BitVec 3, b ≠ 0b11#2 ++ n ++ 0b111#3) →
      step s = .refused (.unsupportedInterruptInstruction b))

/-- R35, R270, R247 (d): reset at a boundary, whatever else is presented there and whether or not the processor is stopped,
writes pc, `inte`, `ei_pending` and `halted` and nothing else; `State.reset` has those values. -/
def Obligations.ResetWritesControlStateOnly : Prop :=
  (∀ (s : State) (request : Option Byte) (rest : List Boundary), s.boundaries = { reset := true, request := request } :: rest →
    step s = .next { s with pc := 0x0000#16, inte := false, eiPending := false, halted := false, boundaries := rest }) ∧
  State.reset.pc = 0x0000#16 ∧ State.reset.inte = false ∧ State.reset.eiPending = false ∧ State.reset.halted = false

/-- R230, R248, R257: from the stopped state without a reset: with `inte` = 0 there is no next state, whatever is requested;
with `inte` = 1 and no request it waits, and nothing but the boundary passes. Reset and an accepted interrupt are the only
ways out; until one comes everything survives unchanged. -/
def Obligations.StoppedStateLeftOnlyByResetOrInterrupt : Prop :=
  ∀ (s : State), s.halted = true →
    (s.boundaryNow.reset = false → s.inte = false → step s = .fault .stopped) ∧
    (s.boundaryNow.reset = false → s.inte = true → s.boundaryNow.request = none →
      step s = .next { s with boundaries := s.boundaries.tail }) ∧
    (∀ t, step s = .next t →
      s.boundaryNow.reset = true ∨ (s.inte = true ∧ s.boundaryNow.request ≠ none) ∨
        t = { s with boundaries := s.boundaries.tail })

/-- R228, R243, R274: after EI with `inte` = 0, whatever is requested at the next boundary, the next instruction (if it is
neither EI nor DI) is performed first, and `inte` is 1 at its end. -/
def Obligations.EiTakesEffectAfterNextInstruction : Prop :=
  ∀ (s : State), Proceeds s → s.inte = false → StandsAtPc s [0xFB#8] →
    ∃ t, step s = .next t ∧
      t = { s with eiPending := true, pc := s.pc + 1, boundaries := s.boundaries.tail } ∧
      (∀ (request : Option Byte) (rest : List Boundary) (i : Instr) (bytes : List Byte),
        StandsAtPc t bytes → Spells i bytes → i ≠ .ei → i ≠ .di →
        ∃ u, exec i { t with boundaries := rest } = .next u ∧
          step { t with boundaries := { reset := false, request := request } :: rest } =
            .next { u with inte := true, eiPending := false })

/-- R229, R243: `EI`, `DI` with `inte` = 0 before leaves interrupts disabled with no enable pending, and no boundary in
between admits a request. -/
def Obligations.EiThenDiOpensNoWindow : Prop :=
  ∀ (s : State) (request : Option Byte) (rest : List Boundary), Proceeds s → s.inte = false →
    StandsAtPc s [0xFB#8, 0xF3#8] → s.boundaries.tail = { reset := false, request := request } :: rest →
    ∃ t, step s = .next t ∧ t.inte = false ∧
      step t = .next { s with eiPending := false, pc := s.pc + 2, boundaries := rest }

/-! ## The whole machine -/

/-- R240: no instruction faults or is refused, under any condition of its operands, the flags, the addresses or the state. -/
def Obligations.EveryInstructionCompletes : Prop :=
  ∀ (i : Instr) (s : State), i.wellFormed = true → ∃ t, exec i s = .next t

/-- R36: a flag that the table does not name for an instruction keeps its value. -/
def Obligations.FlagsChangeOnlyAsTabled : Prop :=
  ∀ (i : Instr) (s t : State) (f : Flag), exec i s = .next t → f ∉ flagsWritten i → flagOf t.flags f = flagOf s.flags f

/-- R22, R37: a register that the table does not name for an instruction keeps its value, and SP is what the rules give. -/
def Obligations.RegistersChangeOnlyAsTabled : Prop :=
  ∀ (i : Instr) (s t : State), exec i s = .next t →
    (∀ r, r ∉ regsWritten i → t.reg r = s.reg r) ∧ t.sp = spAfter i s

/-- R66: an instruction changes no byte of memory but at the addresses the table gives, computed from the state before; an
instruction that stores nothing changes none. -/
def Obligations.MemoryChangesOnlyAtStoreAddresses : Prop :=
  ∀ (i : Instr) (s t : State) (x : Word), exec i s = .next t → x ∉ storeAddresses i s → t.peek x = s.peek x

/-- R29, R30, R243: `inte` is written by DI alone among the instructions, `ei_pending` by EI and DI, `halted` by HLT. -/
def Obligations.ControlBitsChangeOnlyByTheirInstructions : Prop :=
  ∀ (i : Instr) (s t : State), exec i s = .next t →
    t.inte = (if i = .di then false else s.inte) ∧
    t.eiPending = (if i = .di then false else if i = .ei then true else s.eiPending) ∧
    t.halted = (if i = .hlt then true else s.halted)

/-- R65, R66: an instruction other than IN and OUT whose data addresses have no device leaves the environment alone. -/
def Obligations.EnvironmentTouchedOnlyByTransfers : Prop :=
  ∀ (i : Instr) (s t : State), exec i s = .next t → (∀ port, i ≠ .inPort port ∧ i ≠ .outPort port) →
    (∀ x, x ∈ loadAddresses i s ∨ x ∈ storeAddresses i s → s.kindAt x ≠ .device) →
    t.events = s.events ∧ t.answers = s.answers

/-- R29, R30: no instruction can read `inte`, `ei_pending` or `halted` (nor, R34, what the environment has in store at the
boundaries): with other values there the instruction does the same to everything else. -/
def Obligations.ControlBitsCannotBeRead : Prop :=
  ∀ (i : Instr) (s t : State) (x y z : Bool) (rest : List Boundary), exec i s = .next t →
    ∃ t', exec i { s with inte := x, eiPending := y, halted := z, boundaries := rest } = .next t' ∧
      { t' with inte := t.inte, eiPending := t.eiPending, halted := t.halted, boundaries := t.boundaries } = t

/-- R243, R245, R270: interrupts become enabled only at the end of an instruction performed with an enable pending, and
disabled only by reset, by an acceptance or by DI. -/
def Obligations.InteChangesOnlyByRule : Prop :=
  ∀ (s t : State), step s = .next t →
    (s.inte = false → t.inte = true → s.eiPending = true ∧ Proceeds s) ∧
    (s.inte = true → t.inte = false →
      s.boundaryNow.reset = true ∨ s.boundaryNow.request ≠ none ∨ ∃ u, fetch s.pastBoundary = .ok (.di, u))

/-- Each step passes one boundary, keeps the memory map, and only adds to the record of events (R65: "in program order"). -/
def Obligations.StepKeepsMapAndHistory : Prop :=
  ∀ (s t : State), step s = .next t →
    t.memmap = s.memmap ∧ t.boundaries = s.boundaries.tail ∧ s.events <+: t.events

/-- The invariant (memory in canonical form; no enable pending while stopped, R243, R248) is kept by every step. -/
def Obligations.StepKeepsInvariant : Prop :=
  ∀ (s t : State), Inv s → step s = .next t → Inv t

/-- The machine right after reset meets the invariant. -/
def Obligations.ResetMeetsInvariant : Prop := Inv State.reset
end

