-- ==== Sys2Proof/Laws/Bits.lean ====
section
/-! SUPPORT. Byte order and field codes: join and split, codes and operands, each way. -/

namespace Sys2Proof.Laws

open Sys2Proof.Machine

theorem join_toNat (h l : Byte) : (join h l).toNat = 256 * h.toNat + l.toNat := by
  have := l.isLt
  simp only [join, BitVec.toNat_append]
  rw [← Nat.shiftLeft_add_eq_or_of_lt this, Nat.shiftLeft_eq]
  omega

theorem highByte_toNat (w : Word) : (highByte w).toNat = w.toNat / 256 := by
  have := w.isLt
  simp only [highByte, BitVec.extractLsb'_toNat, Nat.shiftRight_eq_div_pow]
  omega

theorem lowByte_toNat (w : Word) : (lowByte w).toNat = w.toNat % 256 := by
  simp [lowByte, BitVec.extractLsb'_toNat]

@[simp] theorem highByte_join (h l : Byte) : highByte (join h l) = h := by
  apply BitVec.eq_of_toNat_eq
  rw [highByte_toNat, join_toNat]
  omega

@[simp] theorem lowByte_join (h l : Byte) : lowByte (join h l) = l := by
  apply BitVec.eq_of_toNat_eq
  rw [lowByte_toNat, join_toNat]
  omega

@[simp] theorem join_high_low (w : Word) : join (highByte w) (lowByte w) = w := by
  apply BitVec.eq_of_toNat_eq
  rw [join_toNat, highByte_toNat, lowByte_toNat]
  omega

@[simp] theorem operandOfCode_code (o : Operand8) : operandOfCode (codeOfOperand o) = o := by
  rcases o with r | _
  · cases r <;> rfl
  · rfl

@[simp] theorem codeOfOperand_ofCode (c : BitVec 3) : codeOfOperand (operandOfCode c) = c := by
  revert c; decide

@[simp] theorem regPairOfCode_code (rp : RegPair) : regPairOfCode (codeOfRegPair rp) = rp := by cases rp <;> rfl

@[simp] theorem codeOfRegPair_ofCode (c : BitVec 2) : codeOfRegPair (regPairOfCode c) = c := by
  revert c; decide

@[simp] theorem indirectPairOfCode_code (rp : IndirectPair) : indirectPairOfCode (codeOfIndirectPair rp) = rp := by
  cases rp <;> rfl

@[simp] theorem stackPairOfCode_code (rp : StackPair) : stackPairOfCode (codeOfStackPair rp) = rp := by
  cases rp <;> rfl

@[simp] theorem codeOfStackPair_ofCode (c : BitVec 2) : codeOfStackPair (stackPairOfCode c) = c := by
  revert c; decide

end Sys2Proof.Laws
end

