-- ==== Sys2Proof/Laws/Memory.lean ====
section
/-! SUPPORT. Memory as data: a read after a write, and the canonical form kept by every memory operation. -/

namespace Sys2Proof.Laws

open Sys2Proof.Machine

theorem wfFrom_cons {lo k : Nat} {v : Byte} {rest : Memory} :
    Memory.wfFrom lo ((k, v) :: rest) = true ↔
      lo ≤ k ∧ k < 65536 ∧ v ≠ Config.blankByte ∧ Memory.wfFrom (k + 1) rest = true := by
  simp only [Memory.wfFrom, Bool.and_eq_true, decide_eq_true_eq, Bool.not_eq_true', beq_eq_false_iff_ne]
  tauto

theorem wfFrom_weaken {lo lo' : Nat} (hle : lo' ≤ lo) :
    ∀ {m : Memory}, Memory.wfFrom lo m = true → Memory.wfFrom lo' m = true
  | [], _ => rfl
  | (_, _) :: _, hm => by
    rw [wfFrom_cons] at hm ⊢
    exact ⟨by omega, hm.2⟩

/-- Below its first address a canonical memory reads blank. -/
theorem read_below : ∀ {m : Memory} {lo a : Nat}, Memory.wfFrom lo m = true → a < lo →
    Memory.read m a = Config.blankByte
  | [], _, _, _, _ => rfl
  | (k, v) :: rest, lo, a, hm, ha => by
    rw [wfFrom_cons] at hm
    have hk : k ≠ a := by omega
    simp only [Memory.read, hk, if_false]
    exact read_below hm.2.2.2 (by omega)

/-- R51: a read returns the value of the most recent write to that address. -/
theorem read_write_same : ∀ {m : Memory} {lo : Nat} (a : Nat) (v : Byte), Memory.wfFrom lo m = true →
    Memory.read (Memory.write m a v) a = v
  | [], _, a, v, _ => by
    by_cases hv : v = Config.blankByte <;> simp [Memory.write, Memory.read, hv]
  | (k, w) :: rest, _, a, v, hm => by
    rw [wfFrom_cons] at hm
    by_cases h1 : k < a
    · have hk : k ≠ a := by omega
      simp only [Memory.write, h1, if_true, Memory.read, hk, if_false]
      exact read_write_same a v hm.2.2.2
    · by_cases h2 : k = a
      · subst h2
        by_cases hv : v = Config.blankByte
        · simp only [Memory.write, Nat.lt_irrefl, if_false, if_true, hv]
          exact read_below hm.2.2.2 (by omega)
        · simp [Memory.write, Memory.read, hv]
      · by_cases hv : v = Config.blankByte
        · simp only [Memory.write, h1, h2, if_false, hv, if_true, Memory.read]
          exact read_below hm.2.2.2 (by omega)
        · simp [Memory.write, Memory.read, h1, h2, hv]

/-- A write leaves every other address alone. -/
theorem read_write_other : ∀ (m : Memory) {a b : Nat} (v : Byte), b ≠ a →
    Memory.read (Memory.write m a v) b = Memory.read m b
  | [], a, b, v, hne => by
    by_cases hv : v = Config.blankByte <;> simp [Memory.write, Memory.read, hv, Ne.symm hne]
  | (k, w) :: rest, a, b, v, hne => by
    by_cases h1 : k < a
    · simp only [Memory.write, h1, if_true, Memory.read, read_write_other rest v hne]
    · by_cases h2 : k = a
      · subst h2
        by_cases hv : v = Config.blankByte <;> simp [Memory.write, Memory.read, hv, Ne.symm hne]
      · by_cases hv : v = Config.blankByte <;> simp [Memory.write, Memory.read, h1, h2, hv, Ne.symm hne]

theorem write_wfFrom : ∀ {m : Memory} {lo a : Nat} (v : Byte), Memory.wfFrom lo m = true → lo ≤ a → a < 65536 →
    Memory.wfFrom lo (Memory.write m a v) = true
  | [], lo, a, v, _, hlo, ha => by
    by_cases hv : v = Config.blankByte
    · simp [Memory.write, hv, Memory.wfFrom]
    · simp only [Memory.write, hv, if_false]
      rw [wfFrom_cons]
      exact ⟨hlo, ha, hv, rfl⟩
  | (k, w) :: rest, lo, a, v, hm, hlo, ha => by
    have hm' := hm
    rw [wfFrom_cons] at hm'
    obtain ⟨hk, hk', hw, hrest⟩ := hm'
    by_cases h1 : k < a
    · simp only [Memory.write, h1, if_true]
      rw [wfFrom_cons]
      exact ⟨hk, hk', hw, write_wfFrom v hrest (by omega) ha⟩
    · by_cases h2 : k = a
      · subst h2
        by_cases hv : v = Config.blankByte
        · simp only [Memory.write, Nat.lt_irrefl, if_false, if_true, hv]
          exact wfFrom_weaken (by omega) hrest
        · simp only [Memory.write, Nat.lt_irrefl, if_false, if_true, hv]
          rw [wfFrom_cons]
          exact ⟨hk, hk', hv, hrest⟩
      · by_cases hv : v = Config.blankByte
        · simp only [Memory.write, h1, h2, if_false, hv, if_true]
          exact hm
        · simp only [Memory.write, h1, h2, if_false, hv]
          rw [wfFrom_cons]
          refine ⟨hlo, ha, hv, ?_⟩
          rw [wfFrom_cons]
          exact ⟨by omega, hk', hw, hrest⟩

/-- Every memory operation keeps the canonical form: there is one, the write of a byte at a 16-bit address. -/
theorem write_wf {m : Memory} (a : Word) (v : Byte) (hm : Memory.wf m = true) :
    Memory.wf (Memory.write m a.toNat v) = true :=
  write_wfFrom v hm (Nat.zero_le _) a.isLt

/-- Two canonical memories that read alike everywhere are equal: the form is canonical. -/
theorem eq_of_read_eq : ∀ {m n : Memory} {lo : Nat}, Memory.wfFrom lo m = true → Memory.wfFrom lo n = true →
    (∀ a, Memory.read m a = Memory.read n a) → m = n
  | [], [], _, _, _, _ => rfl
  | [], (k, v) :: rest, _, _, hn, heq => by
    rw [wfFrom_cons] at hn
    have := heq k
    simp only [Memory.read, if_true] at this
    exact absurd this.symm hn.2.2.1
  | (k, v) :: rest, [], _, hm, _, heq => by
    rw [wfFrom_cons] at hm
    have := heq k
    simp only [Memory.read, if_true] at this
    exact absurd this hm.2.2.1
  | (k, v) :: rest, (k', v') :: rest', lo, hm, hn, heq => by
    rw [wfFrom_cons] at hm hn
    have hkk : k = k' := by
      rcases Nat.lt_trichotomy k k' with hlt | heq' | hgt
      · have h1 := heq k
        have hne : k' ≠ k := by omega
        simp only [Memory.read, if_true, hne, if_false] at h1
        rw [read_below hn.2.2.2 (by omega)] at h1
        exact absurd h1 hm.2.2.1
      · exact heq'
      · have h1 := heq k'
        have hne : k ≠ k' := by omega
        simp only [Memory.read, if_true, hne, if_false] at h1
        rw [read_below hm.2.2.2 (by omega)] at h1
        exact absurd h1.symm hn.2.2.1
    subst hkk
    have hv : v = v' := by simpa [Memory.read] using heq k
    subst hv
    have hrest : rest = rest' := by
      refine eq_of_read_eq hm.2.2.2 hn.2.2.2 (fun a => ?_)
      by_cases ha : k = a
      · subst ha
        rw [read_below hm.2.2.2 (by omega), read_below hn.2.2.2 (by omega)]
      · simpa [Memory.read, ha] using heq a
    rw [hrest]

end Sys2Proof.Laws
end

