-- ==== Sys2Proof/Laws/State.lean ====
section
/-! SUPPORT. One lemma per field per update of the state, so that no later proof unfolds a record update. -/

namespace Sys2Proof.Laws

open Sys2Proof.Machine

variable (s : State)

/-! ### setBC -/

@[simp] theorem setBC_a (v : Word) : (s.setBC v).a = s.a := rfl
@[simp] theorem setBC_b (v : Word) : (s.setBC v).b = highByte v := rfl
@[simp] theorem setBC_c (v : Word) : (s.setBC v).c = lowByte v := rfl
@[simp] theorem setBC_d (v : Word) : (s.setBC v).d = s.d := rfl
@[simp] theorem setBC_e (v : Word) : (s.setBC v).e = s.e := rfl
@[simp] theorem setBC_h (v : Word) : (s.setBC v).h = s.h := rfl
@[simp] theorem setBC_l (v : Word) : (s.setBC v).l = s.l := rfl
@[simp] theorem setBC_sp (v : Word) : (s.setBC v).sp = s.sp := rfl
@[simp] theorem setBC_pc (v : Word) : (s.setBC v).pc = s.pc := rfl
@[simp] theorem setBC_flags (v : Word) : (s.setBC v).flags = s.flags := rfl
@[simp] theorem setBC_inte (v : Word) : (s.setBC v).inte = s.inte := rfl
@[simp] theorem setBC_eiPending (v : Word) : (s.setBC v).eiPending = s.eiPending := rfl
@[simp] theorem setBC_halted (v : Word) : (s.setBC v).halted = s.halted := rfl
@[simp] theorem setBC_mem (v : Word) : (s.setBC v).mem = s.mem := rfl
@[simp] theorem setBC_memmap (v : Word) : (s.setBC v).memmap = s.memmap := rfl
@[simp] theorem setBC_events (v : Word) : (s.setBC v).events = s.events := rfl
@[simp] theorem setBC_answers (v : Word) : (s.setBC v).answers = s.answers := rfl
@[simp] theorem setBC_boundaries (v : Word) : (s.setBC v).boundaries = s.boundaries := rfl
@[simp] theorem setBC_draws (v : Word) : (s.setBC v).draws = s.draws := rfl

/-! ### setDE -/

@[simp] theorem setDE_a (v : Word) : (s.setDE v).a = s.a := rfl
@[simp] theorem setDE_b (v : Word) : (s.setDE v).b = s.b := rfl
@[simp] theorem setDE_c (v : Word) : (s.setDE v).c = s.c := rfl
@[simp] theorem setDE_d (v : Word) : (s.setDE v).d = highByte v := rfl
@[simp] theorem setDE_e (v : Word) : (s.setDE v).e = lowByte v := rfl
@[simp] theorem setDE_h (v : Word) : (s.setDE v).h = s.h := rfl
@[simp] theorem setDE_l (v : Word) : (s.setDE v).l = s.l := rfl
@[simp] theorem setDE_sp (v : Word) : (s.setDE v).sp = s.sp := rfl
@[simp] theorem setDE_pc (v : Word) : (s.setDE v).pc = s.pc := rfl
@[simp] theorem setDE_flags (v : Word) : (s.setDE v).flags = s.flags := rfl
@[simp] theorem setDE_inte (v : Word) : (s.setDE v).inte = s.inte := rfl
@[simp] theorem setDE_eiPending (v : Word) : (s.setDE v).eiPending = s.eiPending := rfl
@[simp] theorem setDE_halted (v : Word) : (s.setDE v).halted = s.halted := rfl
@[simp] theorem setDE_mem (v : Word) : (s.setDE v).mem = s.mem := rfl
@[simp] theorem setDE_memmap (v : Word) : (s.setDE v).memmap = s.memmap := rfl
@[simp] theorem setDE_events (v : Word) : (s.setDE v).events = s.events := rfl
@[simp] theorem setDE_answers (v : Word) : (s.setDE v).answers = s.answers := rfl
@[simp] theorem setDE_boundaries (v : Word) : (s.setDE v).boundaries = s.boundaries := rfl
@[simp] theorem setDE_draws (v : Word) : (s.setDE v).draws = s.draws := rfl

/-! ### setHL -/

@[simp] theorem setHL_a (v : Word) : (s.setHL v).a = s.a := rfl
@[simp] theorem setHL_b (v : Word) : (s.setHL v).b = s.b := rfl
@[simp] theorem setHL_c (v : Word) : (s.setHL v).c = s.c := rfl
@[simp] theorem setHL_d (v : Word) : (s.setHL v).d = s.d := rfl
@[simp] theorem setHL_e (v : Word) : (s.setHL v).e = s.e := rfl
@[simp] theorem setHL_h (v : Word) : (s.setHL v).h = highByte v := rfl
@[simp] theorem setHL_l (v : Word) : (s.setHL v).l = lowByte v := rfl
@[simp] theorem setHL_sp (v : Word) : (s.setHL v).sp = s.sp := rfl
@[simp] theorem setHL_pc (v : Word) : (s.setHL v).pc = s.pc := rfl
@[simp] theorem setHL_flags (v : Word) : (s.setHL v).flags = s.flags := rfl
@[simp] theorem setHL_inte (v : Word) : (s.setHL v).inte = s.inte := rfl
@[simp] theorem setHL_eiPending (v : Word) : (s.setHL v).eiPending = s.eiPending := rfl
@[simp] theorem setHL_halted (v : Word) : (s.setHL v).halted = s.halted := rfl
@[simp] theorem setHL_mem (v : Word) : (s.setHL v).mem = s.mem := rfl
@[simp] theorem setHL_memmap (v : Word) : (s.setHL v).memmap = s.memmap := rfl
@[simp] theorem setHL_events (v : Word) : (s.setHL v).events = s.events := rfl
@[simp] theorem setHL_answers (v : Word) : (s.setHL v).answers = s.answers := rfl
@[simp] theorem setHL_boundaries (v : Word) : (s.setHL v).boundaries = s.boundaries := rfl
@[simp] theorem setHL_draws (v : Word) : (s.setHL v).draws = s.draws := rfl

/-! ### setSP -/

@[simp] theorem setSP_a (v : Word) : (s.setSP v).a = s.a := rfl
@[simp] theorem setSP_b (v : Word) : (s.setSP v).b = s.b := rfl
@[simp] theorem setSP_c (v : Word) : (s.setSP v).c = s.c := rfl
@[simp] theorem setSP_d (v : Word) : (s.setSP v).d = s.d := rfl
@[simp] theorem setSP_e (v : Word) : (s.setSP v).e = s.e := rfl
@[simp] theorem setSP_h (v : Word) : (s.setSP v).h = s.h := rfl
@[simp] theorem setSP_l (v : Word) : (s.setSP v).l = s.l := rfl
@[simp] theorem setSP_sp (v : Word) : (s.setSP v).sp = v := rfl
@[simp] theorem setSP_pc (v : Word) : (s.setSP v).pc = s.pc := rfl
@[simp] theorem setSP_flags (v : Word) : (s.setSP v).flags = s.flags := rfl
@[simp] theorem setSP_inte (v : Word) : (s.setSP v).inte = s.inte := rfl
@[simp] theorem setSP_eiPending (v : Word) : (s.setSP v).eiPending = s.eiPending := rfl
@[simp] theorem setSP_halted (v : Word) : (s.setSP v).halted = s.halted := rfl
@[simp] theorem setSP_mem (v : Word) : (s.setSP v).mem = s.mem := rfl
@[simp] theorem setSP_memmap (v : Word) : (s.setSP v).memmap = s.memmap := rfl
@[simp] theorem setSP_events (v : Word) : (s.setSP v).events = s.events := rfl
@[simp] theorem setSP_answers (v : Word) : (s.setSP v).answers = s.answers := rfl
@[simp] theorem setSP_boundaries (v : Word) : (s.setSP v).boundaries = s.boundaries := rfl
@[simp] theorem setSP_draws (v : Word) : (s.setSP v).draws = s.draws := rfl

/-! ### setPc -/

@[simp] theorem setPc_a (v : Word) : (s.setPc v).a = s.a := rfl
@[simp] theorem setPc_b (v : Word) : (s.setPc v).b = s.b := rfl
@[simp] theorem setPc_c (v : Word) : (s.setPc v).c = s.c := rfl
@[simp] theorem setPc_d (v : Word) : (s.setPc v).d = s.d := rfl
@[simp] theorem setPc_e (v : Word) : (s.setPc v).e = s.e := rfl
@[simp] theorem setPc_h (v : Word) : (s.setPc v).h = s.h := rfl
@[simp] theorem setPc_l (v : Word) : (s.setPc v).l = s.l := rfl
@[simp] theorem setPc_sp (v : Word) : (s.setPc v).sp = s.sp := rfl
@[simp] theorem setPc_pc (v : Word) : (s.setPc v).pc = v := rfl
@[simp] theorem setPc_flags (v : Word) : (s.setPc v).flags = s.flags := rfl
@[simp] theorem setPc_inte (v : Word) : (s.setPc v).inte = s.inte := rfl
@[simp] theorem setPc_eiPending (v : Word) : (s.setPc v).eiPending = s.eiPending := rfl
@[simp] theorem setPc_halted (v : Word) : (s.setPc v).halted = s.halted := rfl
@[simp] theorem setPc_mem (v : Word) : (s.setPc v).mem = s.mem := rfl
@[simp] theorem setPc_memmap (v : Word) : (s.setPc v).memmap = s.memmap := rfl
@[simp] theorem setPc_events (v : Word) : (s.setPc v).events = s.events := rfl
@[simp] theorem setPc_answers (v : Word) : (s.setPc v).answers = s.answers := rfl
@[simp] theorem setPc_boundaries (v : Word) : (s.setPc v).boundaries = s.boundaries := rfl
@[simp] theorem setPc_draws (v : Word) : (s.setPc v).draws = s.draws := rfl

/-! ### advance -/

@[simp] theorem advance_a (n : Word) : (s.advance n).a = s.a := rfl
@[simp] theorem advance_b (n : Word) : (s.advance n).b = s.b := rfl
@[simp] theorem advance_c (n : Word) : (s.advance n).c = s.c := rfl
@[simp] theorem advance_d (n : Word) : (s.advance n).d = s.d := rfl
@[simp] theorem advance_e (n : Word) : (s.advance n).e = s.e := rfl
@[simp] theorem advance_h (n : Word) : (s.advance n).h = s.h := rfl
@[simp] theorem advance_l (n : Word) : (s.advance n).l = s.l := rfl
@[simp] theorem advance_sp (n : Word) : (s.advance n).sp = s.sp := rfl
@[simp] theorem advance_pc (n : Word) : (s.advance n).pc = s.pc + n := rfl
@[simp] theorem advance_flags (n : Word) : (s.advance n).flags = s.flags := rfl
@[simp] theorem advance_inte (n : Word) : (s.advance n).inte = s.inte := rfl
@[simp] theorem advance_eiPending (n : Word) : (s.advance n).eiPending = s.eiPending := rfl
@[simp] theorem advance_halted (n : Word) : (s.advance n).halted = s.halted := rfl
@[simp] theorem advance_mem (n : Word) : (s.advance n).mem = s.mem := rfl
@[simp] theorem advance_memmap (n : Word) : (s.advance n).memmap = s.memmap := rfl
@[simp] theorem advance_events (n : Word) : (s.advance n).events = s.events := rfl
@[simp] theorem advance_answers (n : Word) : (s.advance n).answers = s.answers := rfl
@[simp] theorem advance_boundaries (n : Word) : (s.advance n).boundaries = s.boundaries := rfl
@[simp] theorem advance_draws (n : Word) : (s.advance n).draws = s.draws := rfl

/-! ### setFlags -/

@[simp] theorem setFlags_a (f : Flags) : (s.setFlags f).a = s.a := rfl
@[simp] theorem setFlags_b (f : Flags) : (s.setFlags f).b = s.b := rfl
@[simp] theorem setFlags_c (f : Flags) : (s.setFlags f).c = s.c := rfl
@[simp] theorem setFlags_d (f : Flags) : (s.setFlags f).d = s.d := rfl
@[simp] theorem setFlags_e (f : Flags) : (s.setFlags f).e = s.e := rfl
@[simp] theorem setFlags_h (f : Flags) : (s.setFlags f).h = s.h := rfl
@[simp] theorem setFlags_l (f : Flags) : (s.setFlags f).l = s.l := rfl
@[simp] theorem setFlags_sp (f : Flags) : (s.setFlags f).sp = s.sp := rfl
@[simp] theorem setFlags_pc (f : Flags) : (s.setFlags f).pc = s.pc := rfl
@[simp] theorem setFlags_flags (f : Flags) : (s.setFlags f).flags = f := rfl
@[simp] theorem setFlags_inte (f : Flags) : (s.setFlags f).inte = s.inte := rfl
@[simp] theorem setFlags_eiPending (f : Flags) : (s.setFlags f).eiPending = s.eiPending := rfl
@[simp] theorem setFlags_halted (f : Flags) : (s.setFlags f).halted = s.halted := rfl
@[simp] theorem setFlags_mem (f : Flags) : (s.setFlags f).mem = s.mem := rfl
@[simp] theorem setFlags_memmap (f : Flags) : (s.setFlags f).memmap = s.memmap := rfl
@[simp] theorem setFlags_events (f : Flags) : (s.setFlags f).events = s.events := rfl
@[simp] theorem setFlags_answers (f : Flags) : (s.setFlags f).answers = s.answers := rfl
@[simp] theorem setFlags_boundaries (f : Flags) : (s.setFlags f).boundaries = s.boundaries := rfl
@[simp] theorem setFlags_draws (f : Flags) : (s.setFlags f).draws = s.draws := rfl

/-! ### setCY -/

@[simp] theorem setCY_a (v : Bool) : (s.setCY v).a = s.a := rfl
@[simp] theorem setCY_b (v : Bool) : (s.setCY v).b = s.b := rfl
@[simp] theorem setCY_c (v : Bool) : (s.setCY v).c = s.c := rfl
@[simp] theorem setCY_d (v : Bool) : (s.setCY v).d = s.d := rfl
@[simp] theorem setCY_e (v : Bool) : (s.setCY v).e = s.e := rfl
@[simp] theorem setCY_h (v : Bool) : (s.setCY v).h = s.h := rfl
@[simp] theorem setCY_l (v : Bool) : (s.setCY v).l = s.l := rfl
@[simp] theorem setCY_sp (v : Bool) : (s.setCY v).sp = s.sp := rfl
@[simp] theorem setCY_pc (v : Bool) : (s.setCY v).pc = s.pc := rfl
@[simp] theorem setCY_flags (v : Bool) : (s.setCY v).flags = { s.flags with cy := v } := rfl
@[simp] theorem setCY_inte (v : Bool) : (s.setCY v).inte = s.inte := rfl
@[simp] theorem setCY_eiPending (v : Bool) : (s.setCY v).eiPending = s.eiPending := rfl
@[simp] theorem setCY_halted (v : Bool) : (s.setCY v).halted = s.halted := rfl
@[simp] theorem setCY_mem (v : Bool) : (s.setCY v).mem = s.mem := rfl
@[simp] theorem setCY_memmap (v : Bool) : (s.setCY v).memmap = s.memmap := rfl
@[simp] theorem setCY_events (v : Bool) : (s.setCY v).events = s.events := rfl
@[simp] theorem setCY_answers (v : Bool) : (s.setCY v).answers = s.answers := rfl
@[simp] theorem setCY_boundaries (v : Bool) : (s.setCY v).boundaries = s.boundaries := rfl
@[simp] theorem setCY_draws (v : Bool) : (s.setCY v).draws = s.draws := rfl

/-! ### drawn -/

@[simp] theorem drawn_a : (s.drawn).a = s.a := rfl
@[simp] theorem drawn_b : (s.drawn).b = s.b := rfl
@[simp] theorem drawn_c : (s.drawn).c = s.c := rfl
@[simp] theorem drawn_d : (s.drawn).d = s.d := rfl
@[simp] theorem drawn_e : (s.drawn).e = s.e := rfl
@[simp] theorem drawn_h : (s.drawn).h = s.h := rfl
@[simp] theorem drawn_l : (s.drawn).l = s.l := rfl
@[simp] theorem drawn_sp : (s.drawn).sp = s.sp := rfl
@[simp] theorem drawn_pc : (s.drawn).pc = s.pc := rfl
@[simp] theorem drawn_flags : (s.drawn).flags = s.flags := rfl
@[simp] theorem drawn_inte : (s.drawn).inte = s.inte := rfl
@[simp] theorem drawn_eiPending : (s.drawn).eiPending = s.eiPending := rfl
@[simp] theorem drawn_halted : (s.drawn).halted = s.halted := rfl
@[simp] theorem drawn_mem : (s.drawn).mem = s.mem := rfl
@[simp] theorem drawn_memmap : (s.drawn).memmap = s.memmap := rfl
@[simp] theorem drawn_events : (s.drawn).events = s.events := rfl
@[simp] theorem drawn_answers : (s.drawn).answers = s.answers := rfl
@[simp] theorem drawn_boundaries : (s.drawn).boundaries = s.boundaries := rfl
@[simp] theorem drawn_draws : (s.drawn).draws = s.draws + 1 := rfl

/-! ### pastBoundary -/

@[simp] theorem pastBoundary_a : (s.pastBoundary).a = s.a := rfl
@[simp] theorem pastBoundary_b : (s.pastBoundary).b = s.b := rfl
@[simp] theorem pastBoundary_c : (s.pastBoundary).c = s.c := rfl
@[simp] theorem pastBoundary_d : (s.pastBoundary).d = s.d := rfl
@[simp] theorem pastBoundary_e : (s.pastBoundary).e = s.e := rfl
@[simp] theorem pastBoundary_h : (s.pastBoundary).h = s.h := rfl
@[simp] theorem pastBoundary_l : (s.pastBoundary).l = s.l := rfl
@[simp] theorem pastBoundary_sp : (s.pastBoundary).sp = s.sp := rfl
@[simp] theorem pastBoundary_pc : (s.pastBoundary).pc = s.pc := rfl
@[simp] theorem pastBoundary_flags : (s.pastBoundary).flags = s.flags := rfl
@[simp] theorem pastBoundary_inte : (s.pastBoundary).inte = s.inte := rfl
@[simp] theorem pastBoundary_eiPending : (s.pastBoundary).eiPending = s.eiPending := rfl
@[simp] theorem pastBoundary_halted : (s.pastBoundary).halted = s.halted := rfl
@[simp] theorem pastBoundary_mem : (s.pastBoundary).mem = s.mem := rfl
@[simp] theorem pastBoundary_memmap : (s.pastBoundary).memmap = s.memmap := rfl
@[simp] theorem pastBoundary_events : (s.pastBoundary).events = s.events := rfl
@[simp] theorem pastBoundary_answers : (s.pastBoundary).answers = s.answers := rfl
@[simp] theorem pastBoundary_boundaries : (s.pastBoundary).boundaries = s.boundaries.tail := rfl
@[simp] theorem pastBoundary_draws : (s.pastBoundary).draws = s.draws := rfl

/-! ### resetEvent -/

@[simp] theorem resetEvent_a : (s.resetEvent).a = s.a := rfl
@[simp] theorem resetEvent_b : (s.resetEvent).b = s.b := rfl
@[simp] theorem resetEvent_c : (s.resetEvent).c = s.c := rfl
@[simp] theorem resetEvent_d : (s.resetEvent).d = s.d := rfl
@[simp] theorem resetEvent_e : (s.resetEvent).e = s.e := rfl
@[simp] theorem resetEvent_h : (s.resetEvent).h = s.h := rfl
@[simp] theorem resetEvent_l : (s.resetEvent).l = s.l := rfl
@[simp] theorem resetEvent_sp : (s.resetEvent).sp = s.sp := rfl
@[simp] theorem resetEvent_pc : (s.resetEvent).pc = Config.resetPc := rfl
@[simp] theorem resetEvent_flags : (s.resetEvent).flags = s.flags := rfl
@[simp] theorem resetEvent_inte : (s.resetEvent).inte = false := rfl
@[simp] theorem resetEvent_eiPending : (s.resetEvent).eiPending = false := rfl
@[simp] theorem resetEvent_halted : (s.resetEvent).halted = false := rfl
@[simp] theorem resetEvent_mem : (s.resetEvent).mem = s.mem := rfl
@[simp] theorem resetEvent_memmap : (s.resetEvent).memmap = s.memmap := rfl
@[simp] theorem resetEvent_events : (s.resetEvent).events = s.events := rfl
@[simp] theorem resetEvent_answers : (s.resetEvent).answers = s.answers := rfl
@[simp] theorem resetEvent_boundaries : (s.resetEvent).boundaries = s.boundaries := rfl
@[simp] theorem resetEvent_draws : (s.resetEvent).draws = s.draws := rfl

/-! ### setReg -/

@[simp] theorem setReg_sp (r : Reg) (v : Byte) : (s.setReg r v).sp = s.sp := by cases r <;> rfl
@[simp] theorem setReg_pc (r : Reg) (v : Byte) : (s.setReg r v).pc = s.pc := by cases r <;> rfl
@[simp] theorem setReg_flags (r : Reg) (v : Byte) : (s.setReg r v).flags = s.flags := by cases r <;> rfl
@[simp] theorem setReg_inte (r : Reg) (v : Byte) : (s.setReg r v).inte = s.inte := by cases r <;> rfl
@[simp] theorem setReg_eiPending (r : Reg) (v : Byte) : (s.setReg r v).eiPending = s.eiPending := by cases r <;> rfl
@[simp] theorem setReg_halted (r : Reg) (v : Byte) : (s.setReg r v).halted = s.halted := by cases r <;> rfl
@[simp] theorem setReg_mem (r : Reg) (v : Byte) : (s.setReg r v).mem = s.mem := by cases r <;> rfl
@[simp] theorem setReg_memmap (r : Reg) (v : Byte) : (s.setReg r v).memmap = s.memmap := by cases r <;> rfl
@[simp] theorem setReg_events (r : Reg) (v : Byte) : (s.setReg r v).events = s.events := by cases r <;> rfl
@[simp] theorem setReg_answers (r : Reg) (v : Byte) : (s.setReg r v).answers = s.answers := by cases r <;> rfl
@[simp] theorem setReg_boundaries (r : Reg) (v : Byte) : (s.setReg r v).boundaries = s.boundaries := by cases r <;> rfl
@[simp] theorem setReg_draws (r : Reg) (v : Byte) : (s.setReg r v).draws = s.draws := by cases r <;> rfl

@[simp] theorem setReg_reg_same (r : Reg) (v : Byte) : (s.setReg r v).reg r = v := by cases r <;> rfl
theorem setReg_reg_other {r q : Reg} (v : Byte) (hne : q ≠ r) : (s.setReg r v).reg q = s.reg q := by
  cases r <;> cases q <;> first | rfl | exact absurd rfl hne

@[simp] theorem setReg_a_a (v : Byte) : (s.setReg .a v).a = v := rfl
@[simp] theorem setReg_a_b (v : Byte) : (s.setReg .a v).b = s.b := rfl
@[simp] theorem setReg_a_c (v : Byte) : (s.setReg .a v).c = s.c := rfl
@[simp] theorem setReg_a_d (v : Byte) : (s.setReg .a v).d = s.d := rfl
@[simp] theorem setReg_a_e (v : Byte) : (s.setReg .a v).e = s.e := rfl
@[simp] theorem setReg_a_h (v : Byte) : (s.setReg .a v).h = s.h := rfl
@[simp] theorem setReg_a_l (v : Byte) : (s.setReg .a v).l = s.l := rfl
@[simp] theorem setReg_b_a (v : Byte) : (s.setReg .b v).a = s.a := rfl
@[simp] theorem setReg_b_b (v : Byte) : (s.setReg .b v).b = v := rfl
@[simp] theorem setReg_b_c (v : Byte) : (s.setReg .b v).c = s.c := rfl
@[simp] theorem setReg_b_d (v : Byte) : (s.setReg .b v).d = s.d := rfl
@[simp] theorem setReg_b_e (v : Byte) : (s.setReg .b v).e = s.e := rfl
@[simp] theorem setReg_b_h (v : Byte) : (s.setReg .b v).h = s.h := rfl
@[simp] theorem setReg_b_l (v : Byte) : (s.setReg .b v).l = s.l := rfl
@[simp] theorem setReg_c_a (v : Byte) : (s.setReg .c v).a = s.a := rfl
@[simp] theorem setReg_c_b (v : Byte) : (s.setReg .c v).b = s.b := rfl
@[simp] theorem setReg_c_c (v : Byte) : (s.setReg .c v).c = v := rfl
@[simp] theorem setReg_c_d (v : Byte) : (s.setReg .c v).d = s.d := rfl
@[simp] theorem setReg_c_e (v : Byte) : (s.setReg .c v).e = s.e := rfl
@[simp] theorem setReg_c_h (v : Byte) : (s.setReg .c v).h = s.h := rfl
@[simp] theorem setReg_c_l (v : Byte) : (s.setReg .c v).l = s.l := rfl
@[simp] theorem setReg_d_a (v : Byte) : (s.setReg .d v).a = s.a := rfl
@[simp] theorem setReg_d_b (v : Byte) : (s.setReg .d v).b = s.b := rfl
@[simp] theorem setReg_d_c (v : Byte) : (s.setReg .d v).c = s.c := rfl
@[simp] theorem setReg_d_d (v : Byte) : (s.setReg .d v).d = v := rfl
@[simp] theorem setReg_d_e (v : Byte) : (s.setReg .d v).e = s.e := rfl
@[simp] theorem setReg_d_h (v : Byte) : (s.setReg .d v).h = s.h := rfl
@[simp] theorem setReg_d_l (v : Byte) : (s.setReg .d v).l = s.l := rfl
@[simp] theorem setReg_e_a (v : Byte) : (s.setReg .e v).a = s.a := rfl
@[simp] theorem setReg_e_b (v : Byte) : (s.setReg .e v).b = s.b := rfl
@[simp] theorem setReg_e_c (v : Byte) : (s.setReg .e v).c = s.c := rfl
@[simp] theorem setReg_e_d (v : Byte) : (s.setReg .e v).d = s.d := rfl
@[simp] theorem setReg_e_e (v : Byte) : (s.setReg .e v).e = v := rfl
@[simp] theorem setReg_e_h (v : Byte) : (s.setReg .e v).h = s.h := rfl
@[simp] theorem setReg_e_l (v : Byte) : (s.setReg .e v).l = s.l := rfl
@[simp] theorem setReg_h_a (v : Byte) : (s.setReg .h v).a = s.a := rfl
@[simp] theorem setReg_h_b (v : Byte) : (s.setReg .h v).b = s.b := rfl
@[simp] theorem setReg_h_c (v : Byte) : (s.setReg .h v).c = s.c := rfl
@[simp] theorem setReg_h_d (v : Byte) : (s.setReg .h v).d = s.d := rfl
@[simp] theorem setReg_h_e (v : Byte) : (s.setReg .h v).e = s.e := rfl
@[simp] theorem setReg_h_h (v : Byte) : (s.setReg .h v).h = v := rfl
@[simp] theorem setReg_h_l (v : Byte) : (s.setReg .h v).l = s.l := rfl
@[simp] theorem setReg_l_a (v : Byte) : (s.setReg .l v).a = s.a := rfl
@[simp] theorem setReg_l_b (v : Byte) : (s.setReg .l v).b = s.b := rfl
@[simp] theorem setReg_l_c (v : Byte) : (s.setReg .l v).c = s.c := rfl
@[simp] theorem setReg_l_d (v : Byte) : (s.setReg .l v).d = s.d := rfl
@[simp] theorem setReg_l_e (v : Byte) : (s.setReg .l v).e = s.e := rfl
@[simp] theorem setReg_l_h (v : Byte) : (s.setReg .l v).h = s.h := rfl
@[simp] theorem setReg_l_l (v : Byte) : (s.setReg .l v).l = v := rfl

/-! ### setPair and setStackPair -/

@[simp] theorem setPair_pc (rp : RegPair) (v : Word) : (s.setPair rp v).pc = s.pc := by cases rp <;> rfl
@[simp] theorem setPair_flags (rp : RegPair) (v : Word) : (s.setPair rp v).flags = s.flags := by cases rp <;> rfl
@[simp] theorem setPair_inte (rp : RegPair) (v : Word) : (s.setPair rp v).inte = s.inte := by cases rp <;> rfl
@[simp] theorem setPair_eiPending (rp : RegPair) (v : Word) : (s.setPair rp v).eiPending = s.eiPending := by cases rp <;> rfl
@[simp] theorem setPair_halted (rp : RegPair) (v : Word) : (s.setPair rp v).halted = s.halted := by cases rp <;> rfl
@[simp] theorem setPair_mem (rp : RegPair) (v : Word) : (s.setPair rp v).mem = s.mem := by cases rp <;> rfl
@[simp] theorem setPair_memmap (rp : RegPair) (v : Word) : (s.setPair rp v).memmap = s.memmap := by cases rp <;> rfl
@[simp] theorem setPair_events (rp : RegPair) (v : Word) : (s.setPair rp v).events = s.events := by cases rp <;> rfl
@[simp] theorem setPair_answers (rp : RegPair) (v : Word) : (s.setPair rp v).answers = s.answers := by cases rp <;> rfl
@[simp] theorem setPair_boundaries (rp : RegPair) (v : Word) : (s.setPair rp v).boundaries = s.boundaries := by cases rp <;> rfl
@[simp] theorem setPair_draws (rp : RegPair) (v : Word) : (s.setPair rp v).draws = s.draws := by cases rp <;> rfl
@[simp] theorem setStackPair_sp (rp : StackPair) (hi lo : Byte) : (s.setStackPair rp hi lo).sp = s.sp := by
  cases rp <;> rfl
@[simp] theorem setStackPair_pc (rp : StackPair) (hi lo : Byte) : (s.setStackPair rp hi lo).pc = s.pc := by
  cases rp <;> rfl
@[simp] theorem setStackPair_inte (rp : StackPair) (hi lo : Byte) : (s.setStackPair rp hi lo).inte = s.inte := by
  cases rp <;> rfl
@[simp] theorem setStackPair_eiPending (rp : StackPair) (hi lo : Byte) : (s.setStackPair rp hi lo).eiPending = s.eiPending := by
  cases rp <;> rfl
@[simp] theorem setStackPair_halted (rp : StackPair) (hi lo : Byte) : (s.setStackPair rp hi lo).halted = s.halted := by
  cases rp <;> rfl
@[simp] theorem setStackPair_mem (rp : StackPair) (hi lo : Byte) : (s.setStackPair rp hi lo).mem = s.mem := by
  cases rp <;> rfl
@[simp] theorem setStackPair_memmap (rp : StackPair) (hi lo : Byte) : (s.setStackPair rp hi lo).memmap = s.memmap := by
  cases rp <;> rfl
@[simp] theorem setStackPair_events (rp : StackPair) (hi lo : Byte) : (s.setStackPair rp hi lo).events = s.events := by
  cases rp <;> rfl
@[simp] theorem setStackPair_answers (rp : StackPair) (hi lo : Byte) : (s.setStackPair rp hi lo).answers = s.answers := by
  cases rp <;> rfl
@[simp] theorem setStackPair_boundaries (rp : StackPair) (hi lo : Byte) : (s.setStackPair rp hi lo).boundaries = s.boundaries := by
  cases rp <;> rfl
@[simp] theorem setStackPair_draws (rp : StackPair) (hi lo : Byte) : (s.setStackPair rp hi lo).draws = s.draws := by
  cases rp <;> rfl

/-! ### What depends on a part of the state only -/

theorem kindAt_eq (a : Word) : s.kindAt a = kindIn s.memmap a := rfl

theorem reg_eq_cases (r : Reg) :
    s.reg r = match r with
      | .a => s.a | .b => s.b | .c => s.c | .d => s.d | .e => s.e | .h => s.h | .l => s.l := by
  cases r <;> rfl

end Sys2Proof.Laws
end

