-- ==== Sys2Proof/Laws/Ops.lean ====
section
/-! SUPPORT. For each shared operation, once, everything it can do: what it changes, what it leaves, when its answer is the
plain one. -/

namespace Sys2Proof.Laws

open Sys2Proof.Machine

/-- The two states differ at most in the environment's events and answers and the draw counter: what a read can change. -/
def ReadFrame (s t : State) : Prop :=
  t = { s with events := t.events, answers := t.answers, draws := t.draws }

/-- The two states differ at most in memory, the environment's events and answers and the draw counter: what the accesses
of an instruction can change. -/
def AccessFrame (s t : State) : Prop :=
  t = { s with mem := t.mem, events := t.events, answers := t.answers, draws := t.draws }

theorem ReadFrame.refl (s : State) : ReadFrame s s := rfl

theorem AccessFrame.refl (s : State) : AccessFrame s s := rfl

theorem ReadFrame.trans {s t u : State} (h1 : ReadFrame s t) (h2 : ReadFrame t u) : ReadFrame s u := by
  unfold ReadFrame at *
  rw [h1] at h2
  exact h2

theorem AccessFrame.trans {s t u : State} (h1 : AccessFrame s t) (h2 : AccessFrame t u) : AccessFrame s u := by
  unfold AccessFrame at *
  rw [h1] at h2
  exact h2

theorem ReadFrame.access {s t : State} (h : ReadFrame s t) : AccessFrame s t := by
  unfold ReadFrame at h
  unfold AccessFrame
  rw [h]

theorem ReadFrame.mem {s t : State} (h : ReadFrame s t) : t.mem = s.mem := by rw [h]
theorem ReadFrame.peek {s t : State} (h : ReadFrame s t) (x : Word) : t.peek x = s.peek x := by rw [h]; rfl
theorem AccessFrame.reg {s t : State} (h : AccessFrame s t) (r : Reg) : t.reg r = s.reg r := by rw [h]; cases r <;> rfl
theorem AccessFrame.a {s t : State} (h : AccessFrame s t) : t.a = s.a := by rw [h]
theorem AccessFrame.b {s t : State} (h : AccessFrame s t) : t.b = s.b := by rw [h]
theorem AccessFrame.c {s t : State} (h : AccessFrame s t) : t.c = s.c := by rw [h]
theorem AccessFrame.d {s t : State} (h : AccessFrame s t) : t.d = s.d := by rw [h]
theorem AccessFrame.e {s t : State} (h : AccessFrame s t) : t.e = s.e := by rw [h]
theorem AccessFrame.h {s t : State} (h : AccessFrame s t) : t.h = s.h := by rw [h]
theorem AccessFrame.l {s t : State} (h : AccessFrame s t) : t.l = s.l := by rw [h]
theorem AccessFrame.hl {s t : State} (h : AccessFrame s t) : t.hl = s.hl := by rw [h]; rfl
theorem AccessFrame.sp {s t : State} (h : AccessFrame s t) : t.sp = s.sp := by rw [h]
theorem AccessFrame.pc {s t : State} (h : AccessFrame s t) : t.pc = s.pc := by rw [h]
theorem AccessFrame.flags {s t : State} (h : AccessFrame s t) : t.flags = s.flags := by rw [h]
theorem AccessFrame.inte {s t : State} (h : AccessFrame s t) : t.inte = s.inte := by rw [h]
theorem AccessFrame.eiPending {s t : State} (h : AccessFrame s t) : t.eiPending = s.eiPending := by rw [h]
theorem AccessFrame.halted {s t : State} (h : AccessFrame s t) : t.halted = s.halted := by rw [h]
theorem AccessFrame.memmap {s t : State} (h : AccessFrame s t) : t.memmap = s.memmap := by rw [h]
theorem AccessFrame.boundaries {s t : State} (h : AccessFrame s t) : t.boundaries = s.boundaries := by rw [h]

/-! ## One access -/

/-- An address that is backed by memory reads as its cell, and the read changes nothing (R51, R58). -/
theorem memRead_backed {s : State} {x : Word} (h : s.backed x = true) : memRead x s = (s.peek x, s) := by
  unfold State.backed at h
  unfold memRead
  cases hk : s.kindAt x <;> simp_all

theorem memRead_device {s : State} {x : Word} (h : s.kindAt x = .device) :
    memRead x s = envRead (.device x) s := by
  unfold memRead; rw [h]

theorem memRead_nothing {s : State} {x : Word} (h : s.kindAt x = .nothing) :
    memRead x s = (Config.floatingBus s.draws x, s.drawn) := by
  unfold memRead; rw [h]

theorem memRead_frame (x : Word) (s : State) : ReadFrame s (memRead x s).2 := by
  unfold memRead
  split <;> rfl

theorem memWrite_ram {s : State} {x : Word} (v : Byte) (h : s.kindAt x = .ram) :
    memWrite x v s = { s with mem := Memory.write s.mem x.toNat v } := by
  unfold memWrite; rw [h]

/-- ROM, or nothing there: a write has no effect (R58). -/
theorem memWrite_lost {s : State} {x : Word} (v : Byte) (h : s.kindAt x = .rom ∨ s.kindAt x = .nothing) :
    memWrite x v s = s := by
  unfold memWrite
  rcases h with h | h <;> rw [h]

theorem memWrite_device {s : State} {x : Word} (v : Byte) (h : s.kindAt x = .device) :
    memWrite x v s = envWrite (.device x) v s := by
  unfold memWrite; rw [h]

theorem memWrite_frame (x : Word) (v : Byte) (s : State) : AccessFrame s (memWrite x v s) := by
  unfold memWrite
  split <;> rfl

theorem memWrite_peek_other {x y : Word} (v : Byte) (s : State) (hne : y ≠ x) : (memWrite x v s).peek y = s.peek y := by
  have hn : y.toNat ≠ x.toNat := fun h => hne (BitVec.eq_of_toNat_eq h)
  unfold memWrite
  split
  · exact read_write_other _ _ hn
  all_goals rfl

theorem memWrite_peek_same {s : State} {x : Word} (v : Byte) (hm : Memory.wf s.mem = true) (h : s.kindAt x = .ram) :
    (memWrite x v s).peek x = v := by
  rw [memWrite_ram v h]
  exact read_write_same _ _ hm

theorem memWrite_wf {s : State} (x : Word) (v : Byte) (hm : Memory.wf s.mem = true) :
    Memory.wf (memWrite x v s).mem = true := by
  unfold memWrite
  split
  · exact write_wf x v hm
  all_goals exact hm

theorem memRead_wf {s : State} (x : Word) (hm : Memory.wf s.mem = true) : Memory.wf (memRead x s).2.mem = true := by
  rw [(memRead_frame x s).mem]; exact hm

/-- Away from devices an access tells the environment nothing and takes no answer from it. -/
theorem memRead_quiet {s : State} {x : Word} (h : s.kindAt x ≠ .device) :
    (memRead x s).2.events = s.events ∧ (memRead x s).2.answers = s.answers := by
  unfold memRead
  split <;> simp_all [State.drawn]

theorem memWrite_quiet {s : State} {x : Word} (v : Byte) (h : s.kindAt x ≠ .device) :
    (memWrite x v s).events = s.events ∧ (memWrite x v s).answers = s.answers := by
  unfold memWrite
  split <;> simp_all

theorem envRead_events (e : Endpoint) (s : State) : s.events <+: (envRead e s).2.events := List.prefix_append _ _

theorem envWrite_events (e : Endpoint) (v : Byte) (s : State) : s.events <+: (envWrite e v s).events :=
  List.prefix_append _ _

theorem memRead_events (x : Word) (s : State) : s.events <+: (memRead x s).2.events := by
  unfold memRead
  split
  case h_3 => exact envRead_events _ _
  all_goals exact List.prefix_refl _

theorem memWrite_events (x : Word) (v : Byte) (s : State) : s.events <+: (memWrite x v s).events := by
  unfold memWrite
  split
  case h_3 => exact envWrite_events _ _ _
  all_goals exact List.prefix_refl _

@[simp] theorem memRead_memmap (x : Word) (s : State) : (memRead x s).2.memmap = s.memmap := by
  rw [memRead_frame x s]

@[simp] theorem memWrite_memmap (x : Word) (v : Byte) (s : State) : (memWrite x v s).memmap = s.memmap := by
  rw [memWrite_frame x v s]

theorem drawn_frame (s : State) : ReadFrame s s.drawn := rfl

/-! ## Two accesses: each is one access after another, in one order or the other -/

/-- What two reads do: two single reads, one after the other, possibly after a draw, in one order or the other. -/
theorem readTwo_cases (x y : Word) (s : State) :
    (∃ s0, ReadFrame s s0 ∧ s0.events = s.events ∧ s0.answers = s.answers ∧
      readTwo x y s = (((memRead x s0).1, (memRead y (memRead x s0).2).1), (memRead y (memRead x s0).2).2)) ∨
    (∃ s0, ReadFrame s s0 ∧ s0.events = s.events ∧ s0.answers = s.answers ∧ s.bothDevice x y = true ∧
      readTwo x y s = (((memRead x (memRead y s0).2).1, (memRead y s0).1), (memRead x (memRead y s0).2).2)) := by
  have hfr : ReadFrame s (if s.bothDevice x y then s.drawn else s) := by split <;> rfl
  have hev : (if s.bothDevice x y then s.drawn else s).events = s.events := by split <;> rfl
  have han : (if s.bothDevice x y then s.drawn else s).answers = s.answers := by split <;> rfl
  by_cases hrev : (s.bothDevice x y && Config.reverseOrder s.draws) = true
  · right
    refine ⟨_, hfr, hev, han, by simp_all, ?_⟩
    simp [readTwo, hrev]
  · left
    refine ⟨_, hfr, hev, han, ?_⟩
    simp [readTwo, hrev]

/-- What two writes do: two single writes, one after the other, possibly after a draw, in one order or the other. -/
theorem writeTwo_cases (x : Word) (vx : Byte) (y : Word) (vy : Byte) (s : State) :
    (∃ s0, ReadFrame s s0 ∧ s0.events = s.events ∧ s0.answers = s.answers ∧
      writeTwo x vx y vy s = memWrite y vy (memWrite x vx s0)) ∨
    (∃ s0, ReadFrame s s0 ∧ s0.events = s.events ∧ s0.answers = s.answers ∧ s.bothDevice x y = true ∧
      writeTwo x vx y vy s = memWrite x vx (memWrite y vy s0)) := by
  have hfr : ReadFrame s (if s.bothDevice x y then s.drawn else s) := by split <;> rfl
  have hev : (if s.bothDevice x y then s.drawn else s).events = s.events := by split <;> rfl
  have han : (if s.bothDevice x y then s.drawn else s).answers = s.answers := by split <;> rfl
  by_cases hrev : (s.bothDevice x y && Config.reverseOrder s.draws) = true
  · right
    refine ⟨_, hfr, hev, han, by simp_all, ?_⟩
    simp [writeTwo, hrev]
  · left
    refine ⟨_, hfr, hev, han, ?_⟩
    simp [writeTwo, hrev]

theorem readTwo_frame (x y : Word) (s : State) : ReadFrame s (readTwo x y s).2 := by
  rcases readTwo_cases x y s with ⟨s0, h0, -, -, h⟩ | ⟨s0, h0, -, -, -, h⟩ <;> rw [h]
  · exact (h0.trans (memRead_frame x s0)).trans (memRead_frame y _)
  · exact (h0.trans (memRead_frame y s0)).trans (memRead_frame x _)

theorem writeTwo_frame (x : Word) (vx : Byte) (y : Word) (vy : Byte) (s : State) :
    AccessFrame s (writeTwo x vx y vy s) := by
  rcases writeTwo_cases x vx y vy s with ⟨s0, h0, -, -, h⟩ | ⟨s0, h0, -, -, -, h⟩ <;> rw [h]
  · exact (h0.access.trans (memWrite_frame x vx s0)).trans (memWrite_frame y vy _)
  · exact (h0.access.trans (memWrite_frame y vy s0)).trans (memWrite_frame x vx _)

theorem bothDevice_false_of_left {s : State} {x y : Word} (h : s.kindAt x ≠ .device) : s.bothDevice x y = false := by
  unfold State.bothDevice
  cases hk : s.kindAt x <;> simp_all

/-- Two addresses backed by memory: the two cells, and nothing changes. -/
theorem readTwo_backed {s : State} {x y : Word} (hx : s.backed x = true) (hy : s.backed y = true) :
    readTwo x y s = ((s.peek x, s.peek y), s) := by
  have hnd : s.kindAt x ≠ .device := by
    unfold State.backed at hx
    intro hk
    simp [hk] at hx
  simp [readTwo, bothDevice_false_of_left hnd, memRead_backed hx, memRead_backed hy]

/-- Two RAM addresses: the two cells written, in R66's order. -/
theorem writeTwo_ram {s : State} {x y : Word} (vx vy : Byte) (hx : s.kindAt x = .ram) (hy : s.kindAt y = .ram) :
    writeTwo x vx y vy s =
      { s with mem := Memory.write (Memory.write s.mem x.toNat vx) y.toNat vy } := by
  have hnd : s.kindAt x ≠ .device := by rw [hx]; decide
  unfold writeTwo
  simp only [bothDevice_false_of_left hnd, Bool.false_and, Bool.false_eq_true, if_false]
  rw [memWrite_ram vx hx, memWrite_ram]
  exact hy

theorem writeTwo_peek_other {x y z : Word} (vx vy : Byte) (s : State) (hx : z ≠ x) (hy : z ≠ y) :
    (writeTwo x vx y vy s).peek z = s.peek z := by
  rcases writeTwo_cases x vx y vy s with ⟨s0, h0, -, -, h⟩ | ⟨s0, h0, -, -, -, h⟩ <;> rw [h]
  · rw [memWrite_peek_other _ _ hy, memWrite_peek_other _ _ hx, h0.peek]
  · rw [memWrite_peek_other _ _ hx, memWrite_peek_other _ _ hy, h0.peek]

theorem writeTwo_wf {s : State} (x : Word) (vx : Byte) (y : Word) (vy : Byte) (hm : Memory.wf s.mem = true) :
    Memory.wf (writeTwo x vx y vy s).mem = true := by
  rcases writeTwo_cases x vx y vy s with ⟨s0, h0, -, -, h⟩ | ⟨s0, h0, -, -, -, h⟩ <;> rw [h]
  · exact memWrite_wf _ _ (memWrite_wf _ _ (by rw [h0.mem]; exact hm))
  · exact memWrite_wf _ _ (memWrite_wf _ _ (by rw [h0.mem]; exact hm))

theorem readTwo_events (x y : Word) (s : State) : s.events <+: (readTwo x y s).2.events := by
  rcases readTwo_cases x y s with ⟨s0, -, he, -, h⟩ | ⟨s0, -, he, -, -, h⟩ <;> rw [h, ← he]
  · exact (memRead_events x s0).trans (memRead_events y _)
  · exact (memRead_events y s0).trans (memRead_events x _)

theorem writeTwo_events (x : Word) (vx : Byte) (y : Word) (vy : Byte) (s : State) :
    s.events <+: (writeTwo x vx y vy s).events := by
  rcases writeTwo_cases x vx y vy s with ⟨s0, -, he, -, h⟩ | ⟨s0, -, he, -, -, h⟩ <;> rw [h, ← he]
  · exact (memWrite_events x vx s0).trans (memWrite_events y vy _)
  · exact (memWrite_events y vy s0).trans (memWrite_events x vx _)

theorem ReadFrame.kindAt {s t : State} (h : ReadFrame s t) (x : Word) : t.kindAt x = s.kindAt x := by rw [h]; rfl

theorem AccessFrame.kindAt {s t : State} (h : AccessFrame s t) (x : Word) : t.kindAt x = s.kindAt x := by rw [h]; rfl

theorem readTwo_quiet {s : State} {x y : Word} (hx : s.kindAt x ≠ .device) (hy : s.kindAt y ≠ .device) :
    (readTwo x y s).2.events = s.events ∧ (readTwo x y s).2.answers = s.answers := by
  rcases readTwo_cases x y s with ⟨s0, h0, he, ha, h⟩ | ⟨s0, -, -, -, hb, -⟩
  · rw [h]
    have h1 := memRead_quiet (s := s0) (x := x) (by rw [h0.kindAt]; exact hx)
    have h2 := memRead_quiet (s := (memRead x s0).2) (x := y) (by
      rw [(memRead_frame x s0).kindAt, h0.kindAt]; exact hy)
    exact ⟨h2.1.trans (h1.1.trans he), h2.2.trans (h1.2.trans ha)⟩
  · rw [bothDevice_false_of_left hx] at hb
    exact absurd hb (by decide)

theorem writeTwo_quiet {s : State} {x y : Word} (vx vy : Byte) (hx : s.kindAt x ≠ .device) (hy : s.kindAt y ≠ .device) :
    (writeTwo x vx y vy s).events = s.events ∧ (writeTwo x vx y vy s).answers = s.answers := by
  rcases writeTwo_cases x vx y vy s with ⟨s0, h0, he, ha, h⟩ | ⟨s0, -, -, -, hb, -⟩
  · rw [h]
    have h1 := memWrite_quiet (s := s0) (x := x) vx (by rw [h0.kindAt]; exact hx)
    have h2 := memWrite_quiet (s := memWrite x vx s0) (x := y) vy (by
      rw [(memWrite_frame x vx s0).kindAt, h0.kindAt]; exact hy)
    exact ⟨h2.1.trans (h1.1.trans he), h2.2.trans (h1.2.trans ha)⟩
  · rw [bothDevice_false_of_left hx] at hb
    exact absurd hb (by decide)

/-! ## XTHL's exchange -/

/-- Away from devices the exchange is both reads and then both writes (R55, R224). -/
theorem exchangeTwo_plain {s : State} {x y : Word} (vx vy : Byte) (h : s.bothDevice x y = false) :
    exchangeTwo x vx y vy s = ((readTwo x y s).1, writeTwo x vx y vy (readTwo x y s).2) := by
  simp [exchangeTwo, h]

theorem exchangeTwo_frame (x : Word) (vx : Byte) (y : Word) (vy : Byte) (s : State) :
    AccessFrame s (exchangeTwo x vx y vy s).2 := by
  unfold exchangeTwo
  split
  · split
    · exact ((((drawn_frame s).access.trans (memRead_frame y _).access).trans (memWrite_frame y vy _)).trans
        (memRead_frame x _).access).trans (memWrite_frame x vx _)
    · exact ((((drawn_frame s).access.trans (memRead_frame x _).access).trans (memWrite_frame x vx _)).trans
        (memRead_frame y _).access).trans (memWrite_frame y vy _)
  · exact (readTwo_frame x y s).access.trans (writeTwo_frame x vx y vy _)

theorem exchangeTwo_peek_other {x y z : Word} (vx vy : Byte) (s : State) (hx : z ≠ x) (hy : z ≠ y) :
    (exchangeTwo x vx y vy s).2.peek z = s.peek z := by
  unfold exchangeTwo
  split
  · split
    · simp only []
      rw [memWrite_peek_other _ _ hx, (memRead_frame x _).peek, memWrite_peek_other _ _ hy, (memRead_frame y _).peek]
      rfl
    · simp only []
      rw [memWrite_peek_other _ _ hy, (memRead_frame y _).peek, memWrite_peek_other _ _ hx, (memRead_frame x _).peek]
      rfl
  · simp only []
    rw [writeTwo_peek_other _ _ _ hx hy, (readTwo_frame x y s).peek]

theorem exchangeTwo_wf {s : State} (x : Word) (vx : Byte) (y : Word) (vy : Byte) (hm : Memory.wf s.mem = true) :
    Memory.wf (exchangeTwo x vx y vy s).2.mem = true := by
  have hd : Memory.wf s.drawn.mem = true := hm
  unfold exchangeTwo
  split
  · split
    · exact memWrite_wf _ _ (memRead_wf _ (memWrite_wf _ _ (memRead_wf _ hd)))
    · exact memWrite_wf _ _ (memRead_wf _ (memWrite_wf _ _ (memRead_wf _ hd)))
  · refine writeTwo_wf _ _ _ _ ?_
    rw [(readTwo_frame x y s).mem]; exact hm

theorem exchangeTwo_events (x : Word) (vx : Byte) (y : Word) (vy : Byte) (s : State) :
    s.events <+: (exchangeTwo x vx y vy s).2.events := by
  unfold exchangeTwo
  split
  · split
    · exact ((memRead_events y s.drawn).trans (memWrite_events y vy _)).trans
        ((memRead_events x _).trans (memWrite_events x vx _))
    · exact ((memRead_events x s.drawn).trans (memWrite_events x vx _)).trans
        ((memRead_events y _).trans (memWrite_events y vy _))
  · exact (readTwo_events x y s).trans (writeTwo_events x vx y vy _)

theorem exchangeTwo_quiet {s : State} {x y : Word} (vx vy : Byte) (hx : s.kindAt x ≠ .device)
    (hy : s.kindAt y ≠ .device) :
    (exchangeTwo x vx y vy s).2.events = s.events ∧ (exchangeTwo x vx y vy s).2.answers = s.answers := by
  rw [exchangeTwo_plain vx vy (bothDevice_false_of_left hx)]
  have h1 := readTwo_quiet hx hy
  have h2 := writeTwo_quiet (s := (readTwo x y s).2) vx vy (x := x) (y := y)
    (by rw [(readTwo_frame x y s).kindAt]; exact hx) (by rw [(readTwo_frame x y s).kindAt]; exact hy)
  exact ⟨h2.1.trans h1.1, h2.2.trans h1.2⟩

/-! ## The stack -/

/-- R56: what a push does beside its two writes. -/
theorem pushBytes_eq (hi lo : Byte) (s : State) :
    pushBytes hi lo s = { writeTwo (s.sp - 1) hi (s.sp - 2) lo s with sp := s.sp - 2 } := rfl

/-- R56 on RAM. -/
theorem pushBytes_ram {s : State} (hi lo : Byte) (h1 : s.kindAt (s.sp - 1) = .ram) (h2 : s.kindAt (s.sp - 2) = .ram) :
    pushBytes hi lo s =
      { s with
        sp := s.sp - 2
        mem := Memory.write (Memory.write s.mem (s.sp - 1).toNat hi) (s.sp - 2).toNat lo } := by
  rw [pushBytes_eq, writeTwo_ram hi lo h1 h2]

/-- R56: what a pop does beside its two reads. -/
theorem popBytes_eq (s : State) :
    popBytes s = ((readTwo s.sp (s.sp + 1) s).1, { (readTwo s.sp (s.sp + 1) s).2 with sp := s.sp + 2 }) := rfl

/-- R56 on memory-backed addresses. -/
theorem popBytes_backed {s : State} (h1 : s.backed s.sp = true) (h2 : s.backed (s.sp + 1) = true) :
    popBytes s = ((s.peek s.sp, s.peek (s.sp + 1)), { s with sp := s.sp + 2 }) := by
  rw [popBytes_eq, readTwo_backed h1 h2]

theorem callTo_eq (target next : Word) (s : State) :
    callTo target next s =
      { writeTwo (s.sp - 1) (highByte next) (s.sp - 2) (lowByte next) s with sp := s.sp - 2, pc := target } := rfl

theorem returnFrom_eq (s : State) :
    returnFrom s =
      { (readTwo s.sp (s.sp + 1) s).2 with
        sp := s.sp + 2
        pc := join (readTwo s.sp (s.sp + 1) s).1.2 (readTwo s.sp (s.sp + 1) s).1.1 } := rfl

/-! ## Operands -/

theorem src8_frame (o : Operand8) (s : State) : ReadFrame s (src8 o s).2 := by
  rcases o with r | _
  · rfl
  · exact memRead_frame _ _

theorem src8_reg (r : Reg) (s : State) : src8 (.reg r) s = (s.reg r, s) := rfl

theorem src8_m (s : State) : src8 .m s = memRead s.hl s := rfl

theorem dst8_reg (r : Reg) (v : Byte) (s : State) : dst8 (.reg r) v s = s.setReg r v := rfl

theorem dst8_m (v : Byte) (s : State) : dst8 .m v s = memWrite s.hl v s := rfl

theorem src8_wf {s : State} (o : Operand8) (hm : Memory.wf s.mem = true) : Memory.wf (src8 o s).2.mem = true := by
  rw [(src8_frame o s).mem]; exact hm

theorem dst8_wf {s : State} (o : Operand8) (v : Byte) (hm : Memory.wf s.mem = true) :
    Memory.wf (dst8 o v s).mem = true := by
  rcases o with r | _
  · rw [dst8_reg, setReg_mem]; exact hm
  · exact memWrite_wf _ _ hm

theorem src8_events (o : Operand8) (s : State) : s.events <+: (src8 o s).2.events := by
  rcases o with r | _
  · exact List.prefix_refl _
  · exact memRead_events _ _

theorem dst8_events (o : Operand8) (v : Byte) (s : State) : s.events <+: (dst8 o v s).events := by
  rcases o with r | _
  · rw [dst8_reg, setReg_events]
  · exact memWrite_events _ _ _

/-! ## The exception, the bookkeeping, reset -/

/-- R246: which supplied bytes are RST n. -/
theorem suppliedRestart_spec : ∀ b : Byte,
    suppliedRestart b = if b = 0b11#2 ++ midField b ++ 0b111#3 then some (midField b) else none := by
  decide +kernel

/-- R245: everything an accepted interrupt does, if it answers a next state. -/
theorem acceptInterrupt_next {b : Byte} {s t : State} (h : acceptInterrupt b s = .next t) :
    ∃ n, suppliedRestart b = some n ∧
      t = restart n s.pc
        { s with inte := false, eiPending := false, halted := false, events := s.events ++ [.interruptAccepted b] } := by
  unfold acceptInterrupt at h
  split at h
  · cases h
  · rename_i n hn
    injection h with h
    exact ⟨n, hn, h.symm⟩

/-- R243: the end of a step writes `inte` and `ei_pending` only. -/
theorem endOfStep_eq (i : Instr) (s : State) :
    endOfStep i s =
      { s with
        inte := s.inte || (s.eiPending && i != .ei && i != .di)
        eiPending := s.eiPending && !(i != .ei && i != .di) } := by
  obtain ⟨_, _, _, _, _, _, _, _, _, _, inte, ei, _, _, _, _, _, _, _⟩ := s
  unfold endOfStep
  cases inte <;> cases ei <;> cases (i != Instr.ei) <;> cases (i != Instr.di) <;> rfl

end Sys2Proof.Laws
end

