-- ==== Sys2Proof/Laws/Access.lean ====
section
/-! SUPPORT. What no access to memory or the environment changes, field by field, as rewrite rules; and what a write leaves of
the environment's answers. -/

namespace Sys2Proof.Laws

open Sys2Proof.Machine


/-! ### memRead -/

@[simp] theorem memRead_a (x : Word) (s : State) : (memRead x s).2.a = s.a := (memRead_frame x s).access.a
@[simp] theorem memRead_b (x : Word) (s : State) : (memRead x s).2.b = s.b := (memRead_frame x s).access.b
@[simp] theorem memRead_c (x : Word) (s : State) : (memRead x s).2.c = s.c := (memRead_frame x s).access.c
@[simp] theorem memRead_d (x : Word) (s : State) : (memRead x s).2.d = s.d := (memRead_frame x s).access.d
@[simp] theorem memRead_e (x : Word) (s : State) : (memRead x s).2.e = s.e := (memRead_frame x s).access.e
@[simp] theorem memRead_h (x : Word) (s : State) : (memRead x s).2.h = s.h := (memRead_frame x s).access.h
@[simp] theorem memRead_l (x : Word) (s : State) : (memRead x s).2.l = s.l := (memRead_frame x s).access.l
@[simp] theorem memRead_sp (x : Word) (s : State) : (memRead x s).2.sp = s.sp := (memRead_frame x s).access.sp
@[simp] theorem memRead_pc (x : Word) (s : State) : (memRead x s).2.pc = s.pc := (memRead_frame x s).access.pc
@[simp] theorem memRead_flags (x : Word) (s : State) : (memRead x s).2.flags = s.flags := (memRead_frame x s).access.flags
@[simp] theorem memRead_inte (x : Word) (s : State) : (memRead x s).2.inte = s.inte := (memRead_frame x s).access.inte
@[simp] theorem memRead_eiPending (x : Word) (s : State) : (memRead x s).2.eiPending = s.eiPending := (memRead_frame x s).access.eiPending
@[simp] theorem memRead_halted (x : Word) (s : State) : (memRead x s).2.halted = s.halted := (memRead_frame x s).access.halted
@[simp] theorem memRead_boundaries (x : Word) (s : State) : (memRead x s).2.boundaries = s.boundaries := (memRead_frame x s).access.boundaries
@[simp] theorem memRead_mem (x : Word) (s : State) : (memRead x s).2.mem = s.mem := (memRead_frame x s).mem

/-! ### readTwo -/

@[simp] theorem readTwo_a (x y : Word) (s : State) : (readTwo x y s).2.a = s.a := (readTwo_frame x y s).access.a
@[simp] theorem readTwo_b (x y : Word) (s : State) : (readTwo x y s).2.b = s.b := (readTwo_frame x y s).access.b
@[simp] theorem readTwo_c (x y : Word) (s : State) : (readTwo x y s).2.c = s.c := (readTwo_frame x y s).access.c
@[simp] theorem readTwo_d (x y : Word) (s : State) : (readTwo x y s).2.d = s.d := (readTwo_frame x y s).access.d
@[simp] theorem readTwo_e (x y : Word) (s : State) : (readTwo x y s).2.e = s.e := (readTwo_frame x y s).access.e
@[simp] theorem readTwo_h (x y : Word) (s : State) : (readTwo x y s).2.h = s.h := (readTwo_frame x y s).access.h
@[simp] theorem readTwo_l (x y : Word) (s : State) : (readTwo x y s).2.l = s.l := (readTwo_frame x y s).access.l
@[simp] theorem readTwo_sp (x y : Word) (s : State) : (readTwo x y s).2.sp = s.sp := (readTwo_frame x y s).access.sp
@[simp] theorem readTwo_pc (x y : Word) (s : State) : (readTwo x y s).2.pc = s.pc := (readTwo_frame x y s).access.pc
@[simp] theorem readTwo_flags (x y : Word) (s : State) : (readTwo x y s).2.flags = s.flags := (readTwo_frame x y s).access.flags
@[simp] theorem readTwo_inte (x y : Word) (s : State) : (readTwo x y s).2.inte = s.inte := (readTwo_frame x y s).access.inte
@[simp] theorem readTwo_eiPending (x y : Word) (s : State) : (readTwo x y s).2.eiPending = s.eiPending := (readTwo_frame x y s).access.eiPending
@[simp] theorem readTwo_halted (x y : Word) (s : State) : (readTwo x y s).2.halted = s.halted := (readTwo_frame x y s).access.halted
@[simp] theorem readTwo_memmap (x y : Word) (s : State) : (readTwo x y s).2.memmap = s.memmap := (readTwo_frame x y s).access.memmap
@[simp] theorem readTwo_boundaries (x y : Word) (s : State) : (readTwo x y s).2.boundaries = s.boundaries := (readTwo_frame x y s).access.boundaries
@[simp] theorem readTwo_mem (x y : Word) (s : State) : (readTwo x y s).2.mem = s.mem := (readTwo_frame x y s).mem

/-! ### src8 -/

@[simp] theorem src8_a (o : Operand8) (s : State) : (src8 o s).2.a = s.a := (src8_frame o s).access.a
@[simp] theorem src8_b (o : Operand8) (s : State) : (src8 o s).2.b = s.b := (src8_frame o s).access.b
@[simp] theorem src8_c (o : Operand8) (s : State) : (src8 o s).2.c = s.c := (src8_frame o s).access.c
@[simp] theorem src8_d (o : Operand8) (s : State) : (src8 o s).2.d = s.d := (src8_frame o s).access.d
@[simp] theorem src8_e (o : Operand8) (s : State) : (src8 o s).2.e = s.e := (src8_frame o s).access.e
@[simp] theorem src8_h (o : Operand8) (s : State) : (src8 o s).2.h = s.h := (src8_frame o s).access.h
@[simp] theorem src8_l (o : Operand8) (s : State) : (src8 o s).2.l = s.l := (src8_frame o s).access.l
@[simp] theorem src8_sp (o : Operand8) (s : State) : (src8 o s).2.sp = s.sp := (src8_frame o s).access.sp
@[simp] theorem src8_pc (o : Operand8) (s : State) : (src8 o s).2.pc = s.pc := (src8_frame o s).access.pc
@[simp] theorem src8_flags (o : Operand8) (s : State) : (src8 o s).2.flags = s.flags := (src8_frame o s).access.flags
@[simp] theorem src8_inte (o : Operand8) (s : State) : (src8 o s).2.inte = s.inte := (src8_frame o s).access.inte
@[simp] theorem src8_eiPending (o : Operand8) (s : State) : (src8 o s).2.eiPending = s.eiPending := (src8_frame o s).access.eiPending
@[simp] theorem src8_halted (o : Operand8) (s : State) : (src8 o s).2.halted = s.halted := (src8_frame o s).access.halted
@[simp] theorem src8_memmap (o : Operand8) (s : State) : (src8 o s).2.memmap = s.memmap := (src8_frame o s).access.memmap
@[simp] theorem src8_boundaries (o : Operand8) (s : State) : (src8 o s).2.boundaries = s.boundaries := (src8_frame o s).access.boundaries
@[simp] theorem src8_mem (o : Operand8) (s : State) : (src8 o s).2.mem = s.mem := (src8_frame o s).mem

/-! ### memWrite -/

@[simp] theorem memWrite_a (x : Word) (v : Byte) (s : State) : (memWrite x v s).a = s.a := (memWrite_frame x v s).a
@[simp] theorem memWrite_b (x : Word) (v : Byte) (s : State) : (memWrite x v s).b = s.b := (memWrite_frame x v s).b
@[simp] theorem memWrite_c (x : Word) (v : Byte) (s : State) : (memWrite x v s).c = s.c := (memWrite_frame x v s).c
@[simp] theorem memWrite_d (x : Word) (v : Byte) (s : State) : (memWrite x v s).d = s.d := (memWrite_frame x v s).d
@[simp] theorem memWrite_e (x : Word) (v : Byte) (s : State) : (memWrite x v s).e = s.e := (memWrite_frame x v s).e
@[simp] theorem memWrite_h (x : Word) (v : Byte) (s : State) : (memWrite x v s).h = s.h := (memWrite_frame x v s).h
@[simp] theorem memWrite_l (x : Word) (v : Byte) (s : State) : (memWrite x v s).l = s.l := (memWrite_frame x v s).l
@[simp] theorem memWrite_sp (x : Word) (v : Byte) (s : State) : (memWrite x v s).sp = s.sp := (memWrite_frame x v s).sp
@[simp] theorem memWrite_pc (x : Word) (v : Byte) (s : State) : (memWrite x v s).pc = s.pc := (memWrite_frame x v s).pc
@[simp] theorem memWrite_flags (x : Word) (v : Byte) (s : State) : (memWrite x v s).flags = s.flags := (memWrite_frame x v s).flags
@[simp] theorem memWrite_inte (x : Word) (v : Byte) (s : State) : (memWrite x v s).inte = s.inte := (memWrite_frame x v s).inte
@[simp] theorem memWrite_eiPending (x : Word) (v : Byte) (s : State) : (memWrite x v s).eiPending = s.eiPending := (memWrite_frame x v s).eiPending
@[simp] theorem memWrite_halted (x : Word) (v : Byte) (s : State) : (memWrite x v s).halted = s.halted := (memWrite_frame x v s).halted
@[simp] theorem memWrite_boundaries (x : Word) (v : Byte) (s : State) : (memWrite x v s).boundaries = s.boundaries := (memWrite_frame x v s).boundaries

/-! ### writeTwo -/

@[simp] theorem writeTwo_a (x : Word) (vx : Byte) (y : Word) (vy : Byte) (s : State) : (writeTwo x vx y vy s).a = s.a := (writeTwo_frame x vx y vy s).a
@[simp] theorem writeTwo_b (x : Word) (vx : Byte) (y : Word) (vy : Byte) (s : State) : (writeTwo x vx y vy s).b = s.b := (writeTwo_frame x vx y vy s).b
@[simp] theorem writeTwo_c (x : Word) (vx : Byte) (y : Word) (vy : Byte) (s : State) : (writeTwo x vx y vy s).c = s.c := (writeTwo_frame x vx y vy s).c
@[simp] theorem writeTwo_d (x : Word) (vx : Byte) (y : Word) (vy : Byte) (s : State) : (writeTwo x vx y vy s).d = s.d := (writeTwo_frame x vx y vy s).d
@[simp] theorem writeTwo_e (x : Word) (vx : Byte) (y : Word) (vy : Byte) (s : State) : (writeTwo x vx y vy s).e = s.e := (writeTwo_frame x vx y vy s).e
@[simp] theorem writeTwo_h (x : Word) (vx : Byte) (y : Word) (vy : Byte) (s : State) : (writeTwo x vx y vy s).h = s.h := (writeTwo_frame x vx y vy s).h
@[simp] theorem writeTwo_l (x : Word) (vx : Byte) (y : Word) (vy : Byte) (s : State) : (writeTwo x vx y vy s).l = s.l := (writeTwo_frame x vx y vy s).l
@[simp] theorem writeTwo_sp (x : Word) (vx : Byte) (y : Word) (vy : Byte) (s : State) : (writeTwo x vx y vy s).sp = s.sp := (writeTwo_frame x vx y vy s).sp
@[simp] theorem writeTwo_pc (x : Word) (vx : Byte) (y : Word) (vy : Byte) (s : State) : (writeTwo x vx y vy s).pc = s.pc := (writeTwo_frame x vx y vy s).pc
@[simp] theorem writeTwo_flags (x : Word) (vx : Byte) (y : Word) (vy : Byte) (s : State) : (writeTwo x vx y vy s).flags = s.flags := (writeTwo_frame x vx y vy s).flags
@[simp] theorem writeTwo_inte (x : Word) (vx : Byte) (y : Word) (vy : Byte) (s : State) : (writeTwo x vx y vy s).inte = s.inte := (writeTwo_frame x vx y vy s).inte
@[simp] theorem writeTwo_eiPending (x : Word) (vx : Byte) (y : Word) (vy : Byte) (s : State) : (writeTwo x vx y vy s).eiPending = s.eiPending := (writeTwo_frame x vx y vy s).eiPending
@[simp] theorem writeTwo_halted (x : Word) (vx : Byte) (y : Word) (vy : Byte) (s : State) : (writeTwo x vx y vy s).halted = s.halted := (writeTwo_frame x vx y vy s).halted
@[simp] theorem writeTwo_memmap (x : Word) (vx : Byte) (y : Word) (vy : Byte) (s : State) : (writeTwo x vx y vy s).memmap = s.memmap := (writeTwo_frame x vx y vy s).memmap
@[simp] theorem writeTwo_boundaries (x : Word) (vx : Byte) (y : Word) (vy : Byte) (s : State) : (writeTwo x vx y vy s).boundaries = s.boundaries := (writeTwo_frame x vx y vy s).boundaries

/-! ### exchangeTwo -/

@[simp] theorem exchangeTwo_a (x : Word) (vx : Byte) (y : Word) (vy : Byte) (s : State) : (exchangeTwo x vx y vy s).2.a = s.a := (exchangeTwo_frame x vx y vy s).a
@[simp] theorem exchangeTwo_b (x : Word) (vx : Byte) (y : Word) (vy : Byte) (s : State) : (exchangeTwo x vx y vy s).2.b = s.b := (exchangeTwo_frame x vx y vy s).b
@[simp] theorem exchangeTwo_c (x : Word) (vx : Byte) (y : Word) (vy : Byte) (s : State) : (exchangeTwo x vx y vy s).2.c = s.c := (exchangeTwo_frame x vx y vy s).c
@[simp] theorem exchangeTwo_d (x : Word) (vx : Byte) (y : Word) (vy : Byte) (s : State) : (exchangeTwo x vx y vy s).2.d = s.d := (exchangeTwo_frame x vx y vy s).d
@[simp] theorem exchangeTwo_e (x : Word) (vx : Byte) (y : Word) (vy : Byte) (s : State) : (exchangeTwo x vx y vy s).2.e = s.e := (exchangeTwo_frame x vx y vy s).e
@[simp] theorem exchangeTwo_h (x : Word) (vx : Byte) (y : Word) (vy : Byte) (s : State) : (exchangeTwo x vx y vy s).2.h = s.h := (exchangeTwo_frame x vx y vy s).h
@[simp] theorem exchangeTwo_l (x : Word) (vx : Byte) (y : Word) (vy : Byte) (s : State) : (exchangeTwo x vx y vy s).2.l = s.l := (exchangeTwo_frame x vx y vy s).l
@[simp] theorem exchangeTwo_sp (x : Word) (vx : Byte) (y : Word) (vy : Byte) (s : State) : (exchangeTwo x vx y vy s).2.sp = s.sp := (exchangeTwo_frame x vx y vy s).sp
@[simp] theorem exchangeTwo_pc (x : Word) (vx : Byte) (y : Word) (vy : Byte) (s : State) : (exchangeTwo x vx y vy s).2.pc = s.pc := (exchangeTwo_frame x vx y vy s).pc
@[simp] theorem exchangeTwo_flags (x : Word) (vx : Byte) (y : Word) (vy : Byte) (s : State) : (exchangeTwo x vx y vy s).2.flags = s.flags := (exchangeTwo_frame x vx y vy s).flags
@[simp] theorem exchangeTwo_inte (x : Word) (vx : Byte) (y : Word) (vy : Byte) (s : State) : (exchangeTwo x vx y vy s).2.inte = s.inte := (exchangeTwo_frame x vx y vy s).inte
@[simp] theorem exchangeTwo_eiPending (x : Word) (vx : Byte) (y : Word) (vy : Byte) (s : State) : (exchangeTwo x vx y vy s).2.eiPending = s.eiPending := (exchangeTwo_frame x vx y vy s).eiPending
@[simp] theorem exchangeTwo_halted (x : Word) (vx : Byte) (y : Word) (vy : Byte) (s : State) : (exchangeTwo x vx y vy s).2.halted = s.halted := (exchangeTwo_frame x vx y vy s).halted
@[simp] theorem exchangeTwo_memmap (x : Word) (vx : Byte) (y : Word) (vy : Byte) (s : State) : (exchangeTwo x vx y vy s).2.memmap = s.memmap := (exchangeTwo_frame x vx y vy s).memmap
@[simp] theorem exchangeTwo_boundaries (x : Word) (vx : Byte) (y : Word) (vy : Byte) (s : State) : (exchangeTwo x vx y vy s).2.boundaries = s.boundaries := (exchangeTwo_frame x vx y vy s).boundaries

/-! ### dst8 -/

@[simp] theorem dst8_sp (o : Operand8) (v : Byte) (s : State) : (dst8 o v s).sp = s.sp := by
  rcases o with r | _
  · rw [dst8_reg, setReg_sp]
  · exact (memWrite_frame _ _ _).sp
@[simp] theorem dst8_pc (o : Operand8) (v : Byte) (s : State) : (dst8 o v s).pc = s.pc := by
  rcases o with r | _
  · rw [dst8_reg, setReg_pc]
  · exact (memWrite_frame _ _ _).pc
@[simp] theorem dst8_flags (o : Operand8) (v : Byte) (s : State) : (dst8 o v s).flags = s.flags := by
  rcases o with r | _
  · rw [dst8_reg, setReg_flags]
  · exact (memWrite_frame _ _ _).flags
@[simp] theorem dst8_inte (o : Operand8) (v : Byte) (s : State) : (dst8 o v s).inte = s.inte := by
  rcases o with r | _
  · rw [dst8_reg, setReg_inte]
  · exact (memWrite_frame _ _ _).inte
@[simp] theorem dst8_eiPending (o : Operand8) (v : Byte) (s : State) : (dst8 o v s).eiPending = s.eiPending := by
  rcases o with r | _
  · rw [dst8_reg, setReg_eiPending]
  · exact (memWrite_frame _ _ _).eiPending
@[simp] theorem dst8_halted (o : Operand8) (v : Byte) (s : State) : (dst8 o v s).halted = s.halted := by
  rcases o with r | _
  · rw [dst8_reg, setReg_halted]
  · exact (memWrite_frame _ _ _).halted
@[simp] theorem dst8_memmap (o : Operand8) (v : Byte) (s : State) : (dst8 o v s).memmap = s.memmap := by
  rcases o with r | _
  · rw [dst8_reg, setReg_memmap]
  · exact (memWrite_frame _ _ _).memmap
@[simp] theorem dst8_boundaries (o : Operand8) (v : Byte) (s : State) : (dst8 o v s).boundaries = s.boundaries := by
  rcases o with r | _
  · rw [dst8_reg, setReg_boundaries]
  · exact (memWrite_frame _ _ _).boundaries

/-! ### Writes take no answer -/

theorem memWrite_answers (x : Word) (v : Byte) (s : State) : (memWrite x v s).answers = s.answers := by
  unfold memWrite
  split <;> rfl

theorem writeTwo_answers (x : Word) (vx : Byte) (y : Word) (vy : Byte) (s : State) :
    (writeTwo x vx y vy s).answers = s.answers := by
  rcases writeTwo_cases x vx y vy s with ⟨s0, -, -, ha, h⟩ | ⟨s0, -, -, ha, -, h⟩ <;>
    rw [h, memWrite_answers, memWrite_answers, ha]

end Sys2Proof.Laws
end

