-- ==== Sys2Proof/Laws/Flags.lean ====
section
/-! SUPPORT. What the flag computations are as arithmetic on numbers (10_state.md R25 to R28; 41_arithmetic.md R132). -/

namespace Sys2Proof.Laws

open Sys2Proof.Machine

theorem ofBool_toNat (c : Bool) : (BitVec.ofBool c).toNat = c.toNat := by cases c <;> rfl

/-- R26: `add8` as numbers: the sum modulo 256, the carry out of bit 7, the carry out of bit 3. -/
theorem add8_spec (a b : Byte) (c : Bool) :
    (add8 a b c).r = BitVec.ofNat 8 (a.toNat + b.toNat + c.toNat) ∧
      (add8 a b c).cy = decide (256 ≤ a.toNat + b.toNat + c.toNat) ∧
      (add8 a b c).ac = decide (16 ≤ a.toNat % 16 + b.toNat % 16 + c.toNat) := by
  have ha := a.isLt
  have hb := b.isLt
  have hc : c.toNat ≤ 1 := by cases c <;> decide
  refine ⟨?_, ?_, ?_⟩
  · apply BitVec.eq_of_toNat_eq
    simp only [add8, BitVec.extractLsb'_toNat, BitVec.toNat_add, BitVec.toNat_setWidth, ofBool_toNat,
      BitVec.toNat_ofNat, Nat.shiftRight_zero]
    omega
  · simp only [add8, BitVec.getLsbD, BitVec.toNat_add, BitVec.toNat_setWidth, ofBool_toNat, Nat.testBit_eq_decide_div_mod_eq]
    congr 1
    apply propext
    omega
  · simp only [add8, BitVec.getLsbD, BitVec.toNat_add, BitVec.toNat_setWidth, BitVec.extractLsb'_toNat, ofBool_toNat,
      Nat.testBit_eq_decide_div_mod_eq, Nat.shiftRight_zero]
    congr 1
    apply propext
    omega

/-- R27: `sub8` as numbers: the difference modulo 256, the borrow, and AC = 1 when there is no borrow out of bit 4. -/
theorem sub8_spec (a b : Byte) (c : Bool) :
    (sub8 a b c).r = BitVec.ofNat 8 (a.toNat + 256 - b.toNat - c.toNat) ∧
      (sub8 a b c).cy = decide (a.toNat < b.toNat + c.toNat) ∧
      (sub8 a b c).ac = decide (b.toNat % 16 + c.toNat ≤ a.toNat % 16) := by
  have ha := a.isLt
  have hb := b.isLt
  have hn : (~~~b).toNat = 255 - b.toNat := by simp [BitVec.toNat_not]
  have hc : (!c).toNat = 1 - c.toNat := by cases c <;> rfl
  have hc' : c.toNat ≤ 1 := by cases c <;> decide
  obtain ⟨hr, hcy, hac⟩ := add8_spec a (~~~b) (!c)
  refine ⟨?_, ?_, ?_⟩
  · show (add8 a (~~~b) (!c)).r = _
    rw [hr, hn, hc]
    apply BitVec.eq_of_toNat_eq
    simp only [BitVec.toNat_ofNat]
    omega
  · show (!(add8 a (~~~b) (!c)).cy) = _
    rw [hcy, hn, hc, ← decide_not]
    congr 1
    apply propext
    omega
  · show (add8 a (~~~b) (!c)).ac = _
    rw [hac, hn, hc]
    congr 1
    apply propext
    omega

/-- R132: `addDouble` as numbers. -/
theorem addDouble_spec (x y : Word) :
    (addDouble x y).1 = x + y ∧ (addDouble x y).2 = decide (65536 ≤ x.toNat + y.toNat) := by
  have hx := x.isLt
  have hy := y.isLt
  refine ⟨?_, ?_⟩
  · apply BitVec.eq_of_toNat_eq
    simp only [addDouble, BitVec.extractLsb'_toNat, BitVec.toNat_add, BitVec.toNat_setWidth, Nat.shiftRight_zero]
    omega
  · simp only [addDouble, BitVec.getLsbD, BitVec.toNat_add, BitVec.toNat_setWidth, Nat.testBit_eq_decide_div_mod_eq]
    congr 1
    apply propext
    omega

/-- R28: the status word restores the flags it was packed from. -/
@[simp] theorem pswUnpack_pack (f : Flags) : pswUnpack (pswPack f) = f := by
  obtain ⟨z, s, p, cy, ac⟩ := f
  revert z s p cy ac
  decide

/-- R25: P is the evenness of the number of 1 bits. -/
theorem evenParity_eq_count : ∀ v : Byte,
    evenParity v = decide ((List.range 8).countP (fun k => v.getLsbD k) % 2 = 0) := by
  decide +kernel

/-- R25: S is bit 7, as a number. -/
theorem signBit_eq (v : Byte) : v.getLsbD 7 = decide (128 ≤ v.toNat) := by
  have := v.isLt
  simp only [BitVec.getLsbD, Nat.testBit_eq_decide_div_mod_eq]
  congr 1
  apply propext
  omega

end Sys2Proof.Laws
end

