-- ==== Sys2Proof/Laws/PerInstr.lean ====
section
/-! SUPPORT. The per-instruction families of `LAWS.json`: one lemma per constructor of `Instr`. -/

namespace Sys2Proof.Laws

/-- R71, R72, R79: the encoding of a well-formed instruction is a first byte that has a row of the opcode table, followed by
as many bytes as that row's length asks for. -/
def EncodedLength.Statement (i : Instr) : Prop :=
  i.wellFormed = true → ∃ b rest row, encode i = b :: rest ∧ rowOf b = some row ∧ row.length = rest.length + 1

theorem EncodedLength.mov (dst : Operand8) (src : Operand8) : EncodedLength.Statement (.mov dst src) := by
  intro h
  rcases dst with r | _ <;> rcases src with q | _
  · cases r <;> cases q <;> exact ⟨_, _, _, rfl, rfl, rfl⟩
  · cases r <;> exact ⟨_, _, _, rfl, rfl, rfl⟩
  · cases q <;> exact ⟨_, _, _, rfl, rfl, rfl⟩
  · cases h

theorem EncodedLength.mvi (dst : Operand8) (data : Byte) : EncodedLength.Statement (.mvi dst data) := by
  intro _
  rcases dst with r | _
  · cases r <;> exact ⟨_, _, _, rfl, rfl, rfl⟩
  · exact ⟨_, _, _, rfl, rfl, rfl⟩

theorem EncodedLength.lxi (rp : RegPair) (data16 : Word) : EncodedLength.Statement (.lxi rp data16) := by
  intro _
  cases rp <;> exact ⟨_, _, _, rfl, rfl, rfl⟩

theorem EncodedLength.lda (addr : Word) : EncodedLength.Statement (.lda addr) := fun _ => ⟨_, _, _, rfl, rfl, rfl⟩

theorem EncodedLength.sta (addr : Word) : EncodedLength.Statement (.sta addr) := fun _ => ⟨_, _, _, rfl, rfl, rfl⟩

theorem EncodedLength.lhld (addr : Word) : EncodedLength.Statement (.lhld addr) := fun _ => ⟨_, _, _, rfl, rfl, rfl⟩

theorem EncodedLength.shld (addr : Word) : EncodedLength.Statement (.shld addr) := fun _ => ⟨_, _, _, rfl, rfl, rfl⟩

theorem EncodedLength.ldax (rp : IndirectPair) : EncodedLength.Statement (.ldax rp) := by
  intro _
  cases rp <;> exact ⟨_, _, _, rfl, rfl, rfl⟩

theorem EncodedLength.stax (rp : IndirectPair) : EncodedLength.Statement (.stax rp) := by
  intro _
  cases rp <;> exact ⟨_, _, _, rfl, rfl, rfl⟩

theorem EncodedLength.xchg : EncodedLength.Statement .xchg := fun _ => ⟨_, _, _, rfl, rfl, rfl⟩

theorem EncodedLength.add (src : Operand8) : EncodedLength.Statement (.add src) := by
  intro _
  rcases src with r | _
  · cases r <;> exact ⟨_, _, _, rfl, rfl, rfl⟩
  · exact ⟨_, _, _, rfl, rfl, rfl⟩

theorem EncodedLength.adi (data : Byte) : EncodedLength.Statement (.adi data) := fun _ => ⟨_, _, _, rfl, rfl, rfl⟩

theorem EncodedLength.adc (src : Operand8) : EncodedLength.Statement (.adc src) := by
  intro _
  rcases src with r | _
  · cases r <;> exact ⟨_, _, _, rfl, rfl, rfl⟩
  · exact ⟨_, _, _, rfl, rfl, rfl⟩

theorem EncodedLength.aci (data : Byte) : EncodedLength.Statement (.aci data) := fun _ => ⟨_, _, _, rfl, rfl, rfl⟩

theorem EncodedLength.sub (src : Operand8) : EncodedLength.Statement (.sub src) := by
  intro _
  rcases src with r | _
  · cases r <;> exact ⟨_, _, _, rfl, rfl, rfl⟩
  · exact ⟨_, _, _, rfl, rfl, rfl⟩

theorem EncodedLength.sui (data : Byte) : EncodedLength.Statement (.sui data) := fun _ => ⟨_, _, _, rfl, rfl, rfl⟩

theorem EncodedLength.sbb (src : Operand8) : EncodedLength.Statement (.sbb src) := by
  intro _
  rcases src with r | _
  · cases r <;> exact ⟨_, _, _, rfl, rfl, rfl⟩
  · exact ⟨_, _, _, rfl, rfl, rfl⟩

theorem EncodedLength.sbi (data : Byte) : EncodedLength.Statement (.sbi data) := fun _ => ⟨_, _, _, rfl, rfl, rfl⟩

theorem EncodedLength.inr (dst : Operand8) : EncodedLength.Statement (.inr dst) := by
  intro _
  rcases dst with r | _
  · cases r <;> exact ⟨_, _, _, rfl, rfl, rfl⟩
  · exact ⟨_, _, _, rfl, rfl, rfl⟩

theorem EncodedLength.dcr (dst : Operand8) : EncodedLength.Statement (.dcr dst) := by
  intro _
  rcases dst with r | _
  · cases r <;> exact ⟨_, _, _, rfl, rfl, rfl⟩
  · exact ⟨_, _, _, rfl, rfl, rfl⟩

theorem EncodedLength.inx (rp : RegPair) : EncodedLength.Statement (.inx rp) := by
  intro _
  cases rp <;> exact ⟨_, _, _, rfl, rfl, rfl⟩

theorem EncodedLength.dcx (rp : RegPair) : EncodedLength.Statement (.dcx rp) := by
  intro _
  cases rp <;> exact ⟨_, _, _, rfl, rfl, rfl⟩

theorem EncodedLength.dad (rp : RegPair) : EncodedLength.Statement (.dad rp) := by
  intro _
  cases rp <;> exact ⟨_, _, _, rfl, rfl, rfl⟩

theorem EncodedLength.daa : EncodedLength.Statement .daa := fun _ => ⟨_, _, _, rfl, rfl, rfl⟩

theorem EncodedLength.ana (src : Operand8) : EncodedLength.Statement (.ana src) := by
  intro _
  rcases src with r | _
  · cases r <;> exact ⟨_, _, _, rfl, rfl, rfl⟩
  · exact ⟨_, _, _, rfl, rfl, rfl⟩

theorem EncodedLength.ani (data : Byte) : EncodedLength.Statement (.ani data) := fun _ => ⟨_, _, _, rfl, rfl, rfl⟩

theorem EncodedLength.xra (src : Operand8) : EncodedLength.Statement (.xra src) := by
  intro _
  rcases src with r | _
  · cases r <;> exact ⟨_, _, _, rfl, rfl, rfl⟩
  · exact ⟨_, _, _, rfl, rfl, rfl⟩

theorem EncodedLength.xri (data : Byte) : EncodedLength.Statement (.xri data) := fun _ => ⟨_, _, _, rfl, rfl, rfl⟩

theorem EncodedLength.ora (src : Operand8) : EncodedLength.Statement (.ora src) := by
  intro _
  rcases src with r | _
  · cases r <;> exact ⟨_, _, _, rfl, rfl, rfl⟩
  · exact ⟨_, _, _, rfl, rfl, rfl⟩

theorem EncodedLength.ori (data : Byte) : EncodedLength.Statement (.ori data) := fun _ => ⟨_, _, _, rfl, rfl, rfl⟩

theorem EncodedLength.cmp (src : Operand8) : EncodedLength.Statement (.cmp src) := by
  intro _
  rcases src with r | _
  · cases r <;> exact ⟨_, _, _, rfl, rfl, rfl⟩
  · exact ⟨_, _, _, rfl, rfl, rfl⟩

theorem EncodedLength.cpi (data : Byte) : EncodedLength.Statement (.cpi data) := fun _ => ⟨_, _, _, rfl, rfl, rfl⟩

theorem EncodedLength.rlc : EncodedLength.Statement .rlc := fun _ => ⟨_, _, _, rfl, rfl, rfl⟩

theorem EncodedLength.rrc : EncodedLength.Statement .rrc := fun _ => ⟨_, _, _, rfl, rfl, rfl⟩

theorem EncodedLength.ral : EncodedLength.Statement .ral := fun _ => ⟨_, _, _, rfl, rfl, rfl⟩

theorem EncodedLength.rar : EncodedLength.Statement .rar := fun _ => ⟨_, _, _, rfl, rfl, rfl⟩

theorem EncodedLength.cma : EncodedLength.Statement .cma := fun _ => ⟨_, _, _, rfl, rfl, rfl⟩

theorem EncodedLength.cmc : EncodedLength.Statement .cmc := fun _ => ⟨_, _, _, rfl, rfl, rfl⟩

theorem EncodedLength.stc : EncodedLength.Statement .stc := fun _ => ⟨_, _, _, rfl, rfl, rfl⟩

theorem EncodedLength.jmp (addr : Word) : EncodedLength.Statement (.jmp addr) := fun _ => ⟨_, _, _, rfl, rfl, rfl⟩

theorem EncodedLength.jnz (addr : Word) : EncodedLength.Statement (.jnz addr) := fun _ => ⟨_, _, _, rfl, rfl, rfl⟩

theorem EncodedLength.jz (addr : Word) : EncodedLength.Statement (.jz addr) := fun _ => ⟨_, _, _, rfl, rfl, rfl⟩

theorem EncodedLength.jnc (addr : Word) : EncodedLength.Statement (.jnc addr) := fun _ => ⟨_, _, _, rfl, rfl, rfl⟩

theorem EncodedLength.jc (addr : Word) : EncodedLength.Statement (.jc addr) := fun _ => ⟨_, _, _, rfl, rfl, rfl⟩

theorem EncodedLength.jpo (addr : Word) : EncodedLength.Statement (.jpo addr) := fun _ => ⟨_, _, _, rfl, rfl, rfl⟩

theorem EncodedLength.jpe (addr : Word) : EncodedLength.Statement (.jpe addr) := fun _ => ⟨_, _, _, rfl, rfl, rfl⟩

theorem EncodedLength.jp (addr : Word) : EncodedLength.Statement (.jp addr) := fun _ => ⟨_, _, _, rfl, rfl, rfl⟩

theorem EncodedLength.jm (addr : Word) : EncodedLength.Statement (.jm addr) := fun _ => ⟨_, _, _, rfl, rfl, rfl⟩

theorem EncodedLength.call (addr : Word) : EncodedLength.Statement (.call addr) := fun _ => ⟨_, _, _, rfl, rfl, rfl⟩

theorem EncodedLength.cnz (addr : Word) : EncodedLength.Statement (.cnz addr) := fun _ => ⟨_, _, _, rfl, rfl, rfl⟩

theorem EncodedLength.cz (addr : Word) : EncodedLength.Statement (.cz addr) := fun _ => ⟨_, _, _, rfl, rfl, rfl⟩

theorem EncodedLength.cnc (addr : Word) : EncodedLength.Statement (.cnc addr) := fun _ => ⟨_, _, _, rfl, rfl, rfl⟩

theorem EncodedLength.cc (addr : Word) : EncodedLength.Statement (.cc addr) := fun _ => ⟨_, _, _, rfl, rfl, rfl⟩

theorem EncodedLength.cpo (addr : Word) : EncodedLength.Statement (.cpo addr) := fun _ => ⟨_, _, _, rfl, rfl, rfl⟩

theorem EncodedLength.cpe (addr : Word) : EncodedLength.Statement (.cpe addr) := fun _ => ⟨_, _, _, rfl, rfl, rfl⟩

theorem EncodedLength.cp (addr : Word) : EncodedLength.Statement (.cp addr) := fun _ => ⟨_, _, _, rfl, rfl, rfl⟩

theorem EncodedLength.cm (addr : Word) : EncodedLength.Statement (.cm addr) := fun _ => ⟨_, _, _, rfl, rfl, rfl⟩

theorem EncodedLength.ret : EncodedLength.Statement .ret := fun _ => ⟨_, _, _, rfl, rfl, rfl⟩

theorem EncodedLength.rnz : EncodedLength.Statement .rnz := fun _ => ⟨_, _, _, rfl, rfl, rfl⟩

theorem EncodedLength.rz : EncodedLength.Statement .rz := fun _ => ⟨_, _, _, rfl, rfl, rfl⟩

theorem EncodedLength.rnc : EncodedLength.Statement .rnc := fun _ => ⟨_, _, _, rfl, rfl, rfl⟩

theorem EncodedLength.rc : EncodedLength.Statement .rc := fun _ => ⟨_, _, _, rfl, rfl, rfl⟩

theorem EncodedLength.rpo : EncodedLength.Statement .rpo := fun _ => ⟨_, _, _, rfl, rfl, rfl⟩

theorem EncodedLength.rpe : EncodedLength.Statement .rpe := fun _ => ⟨_, _, _, rfl, rfl, rfl⟩

theorem EncodedLength.rp : EncodedLength.Statement .rp := fun _ => ⟨_, _, _, rfl, rfl, rfl⟩

theorem EncodedLength.rm : EncodedLength.Statement .rm := fun _ => ⟨_, _, _, rfl, rfl, rfl⟩

theorem EncodedLength.rst (n : BitVec 3) : EncodedLength.Statement (.rst n) := by
  intro _
  have hn : n = 0 ∨ n = 1 ∨ n = 2 ∨ n = 3 ∨ n = 4 ∨ n = 5 ∨ n = 6 ∨ n = 7 := by revert n; decide
  rcases hn with h | h | h | h | h | h | h | h <;> subst h <;> exact ⟨_, _, _, rfl, rfl, rfl⟩

theorem EncodedLength.pchl : EncodedLength.Statement .pchl := fun _ => ⟨_, _, _, rfl, rfl, rfl⟩

theorem EncodedLength.push (rp : StackPair) : EncodedLength.Statement (.push rp) := by
  intro _
  cases rp <;> exact ⟨_, _, _, rfl, rfl, rfl⟩

theorem EncodedLength.pop (rp : StackPair) : EncodedLength.Statement (.pop rp) := by
  intro _
  cases rp <;> exact ⟨_, _, _, rfl, rfl, rfl⟩

theorem EncodedLength.xthl : EncodedLength.Statement .xthl := fun _ => ⟨_, _, _, rfl, rfl, rfl⟩

theorem EncodedLength.sphl : EncodedLength.Statement .sphl := fun _ => ⟨_, _, _, rfl, rfl, rfl⟩

theorem EncodedLength.inPort (port : Byte) : EncodedLength.Statement (.inPort port) := fun _ => ⟨_, _, _, rfl, rfl, rfl⟩

theorem EncodedLength.outPort (port : Byte) : EncodedLength.Statement (.outPort port) := fun _ => ⟨_, _, _, rfl, rfl, rfl⟩

theorem EncodedLength.ei : EncodedLength.Statement .ei := fun _ => ⟨_, _, _, rfl, rfl, rfl⟩

theorem EncodedLength.di : EncodedLength.Statement .di := fun _ => ⟨_, _, _, rfl, rfl, rfl⟩

theorem EncodedLength.hlt : EncodedLength.Statement .hlt := fun _ => ⟨_, _, _, rfl, rfl, rfl⟩

theorem EncodedLength.nop : EncodedLength.Statement .nop := fun _ => ⟨_, _, _, rfl, rfl, rfl⟩

end Sys2Proof.Laws
end

