-- ==== Sys2Proof/Tests/Slice0.lean ====
section
/-! SUPPORT. Tests: expected results come from spec/ (the words of 30_encoding.md R84, the vectors of 95_test_vectors.md,
named by their ids), and for every obligation with hypotheses a concrete state that meets them. -/

namespace Sys2Proof.Tests

set_option Elab.async false

open Sys2Proof.Machine Sys2Proof.Safety

/-! ## WellFormed, and decoding of words written out from the opcode map (R84) -/

/-- R81: there is no memory-to-memory MOV. -/
theorem test_wellFormed_refuses_mov_m_m : (Instr.mov .m .m).wellFormed = false := rfl

/-- R81: its would-be byte is HLT. -/
theorem test_wellFormed_allows_hlt : Instr.hlt.wellFormed = true := rfl

/-- R82: an undefined first byte is refused by name. -/
theorem test_decode_undefined : decode [0x08, 0x00, 0x00] = .error (.undefinedOpcode 0x08) := rfl

/-- R71, R79: an instruction that the bytes do not complete is refused by name. -/
theorem test_decode_truncated : decode [0xC3, 0x00] = .error (.truncated 0xC3) := rfl

theorem test_decode_mov : decode [0x6E] = .ok (.mov (.reg .l) .m, []) := rfl
theorem test_decode_mvi : decode [0x36, 0xFE] = .ok (.mvi .m 0xFE, []) := rfl
theorem test_decode_lxi : decode [0x31, 0x00, 0x24] = .ok (.lxi .sp 0x2400, []) := rfl
theorem test_decode_lda : decode [0x3A, 0x34, 0x12] = .ok (.lda 0x1234, []) := rfl
theorem test_decode_sta : decode [0x32, 0x34, 0x12] = .ok (.sta 0x1234, []) := rfl
theorem test_decode_lhld : decode [0x2A, 0xFF, 0x7F] = .ok (.lhld 0x7FFF, []) := rfl
theorem test_decode_shld : decode [0x22, 0x01, 0x80] = .ok (.shld 0x8001, []) := rfl
theorem test_decode_ldax : decode [0x1A] = .ok (.ldax .d, []) := rfl
theorem test_decode_stax : decode [0x02] = .ok (.stax .b, []) := rfl
theorem test_decode_xchg : decode [0xEB] = .ok (.xchg, []) := rfl
theorem test_decode_add : decode [0x80] = .ok (.add (.reg .b), []) := rfl
theorem test_decode_adi : decode [0xC6, 0x0F] = .ok (.adi 0x0F, []) := rfl
theorem test_decode_adc : decode [0x8E] = .ok (.adc .m, []) := rfl
theorem test_decode_aci : decode [0xCE, 0x80] = .ok (.aci 0x80, []) := rfl
theorem test_decode_sub : decode [0x97] = .ok (.sub (.reg .a), []) := rfl
theorem test_decode_sui : decode [0xD6, 0x01] = .ok (.sui 0x01, []) := rfl
theorem test_decode_sbb : decode [0x9B] = .ok (.sbb (.reg .e), []) := rfl
theorem test_decode_sbi : decode [0xDE, 0x00] = .ok (.sbi 0x00, []) := rfl
theorem test_decode_inr : decode [0x34] = .ok (.inr .m, []) := rfl
theorem test_decode_dcr : decode [0x0D] = .ok (.dcr (.reg .c), []) := rfl
theorem test_decode_inx : decode [0x13] = .ok (.inx .d, []) := rfl
theorem test_decode_dcx : decode [0x2B] = .ok (.dcx .h, []) := rfl
theorem test_decode_dad : decode [0x39] = .ok (.dad .sp, []) := rfl
theorem test_decode_daa : decode [0x27] = .ok (.daa, []) := rfl
theorem test_decode_ana : decode [0xA7] = .ok (.ana (.reg .a), []) := rfl
theorem test_decode_ani : decode [0xE6, 0x7F] = .ok (.ani 0x7F, []) := rfl
theorem test_decode_xra : decode [0xAC] = .ok (.xra (.reg .h), []) := rfl
theorem test_decode_xri : decode [0xEE, 0xFF] = .ok (.xri 0xFF, []) := rfl
theorem test_decode_ora : decode [0xB1] = .ok (.ora (.reg .c), []) := rfl
theorem test_decode_ori : decode [0xF6, 0x80] = .ok (.ori 0x80, []) := rfl
theorem test_decode_cmp : decode [0xBD] = .ok (.cmp (.reg .l), []) := rfl
theorem test_decode_cpi : decode [0xFE, 0x40] = .ok (.cpi 0x40, []) := rfl
theorem test_decode_rlc : decode [0x07] = .ok (.rlc, []) := rfl
theorem test_decode_rrc : decode [0x0F] = .ok (.rrc, []) := rfl
theorem test_decode_ral : decode [0x17] = .ok (.ral, []) := rfl
theorem test_decode_rar : decode [0x1F] = .ok (.rar, []) := rfl
theorem test_decode_cma : decode [0x2F] = .ok (.cma, []) := rfl
theorem test_decode_cmc : decode [0x3F] = .ok (.cmc, []) := rfl
theorem test_decode_stc : decode [0x37] = .ok (.stc, []) := rfl
theorem test_decode_jmp : decode [0xC3, 0x00, 0x3E] = .ok (.jmp 0x3E00, []) := rfl
theorem test_decode_jnz : decode [0xC2, 0x09, 0x00] = .ok (.jnz 0x0009, []) := rfl
theorem test_decode_jz : decode [0xCA, 0x0C, 0x00] = .ok (.jz 0x000C, []) := rfl
theorem test_decode_jnc : decode [0xD2, 0x10, 0x00] = .ok (.jnc 0x0010, []) := rfl
theorem test_decode_jc : decode [0xDA, 0xFF, 0x00] = .ok (.jc 0x00FF, []) := rfl
theorem test_decode_jpo : decode [0xE2, 0x00, 0xFF] = .ok (.jpo 0xFF00, []) := rfl
theorem test_decode_jpe : decode [0xEA, 0x34, 0x12] = .ok (.jpe 0x1234, []) := rfl
theorem test_decode_jp : decode [0xF2, 0x01, 0x00] = .ok (.jp 0x0001, []) := rfl
theorem test_decode_jm : decode [0xFA, 0x00, 0x01] = .ok (.jm 0x0100, []) := rfl
theorem test_decode_call : decode [0xCD, 0x10, 0x00] = .ok (.call 0x0010, []) := rfl
theorem test_decode_cnz : decode [0xC4, 0x34, 0x12] = .ok (.cnz 0x1234, []) := rfl
theorem test_decode_cz : decode [0xCC, 0x34, 0x12] = .ok (.cz 0x1234, []) := rfl
theorem test_decode_cnc : decode [0xD4, 0x34, 0x12] = .ok (.cnc 0x1234, []) := rfl
theorem test_decode_cc : decode [0xDC, 0x34, 0x12] = .ok (.cc 0x1234, []) := rfl
theorem test_decode_cpo : decode [0xE4, 0x34, 0x12] = .ok (.cpo 0x1234, []) := rfl
theorem test_decode_cpe : decode [0xEC, 0x34, 0x12] = .ok (.cpe 0x1234, []) := rfl
theorem test_decode_cp : decode [0xF4, 0x34, 0x12] = .ok (.cp 0x1234, []) := rfl
theorem test_decode_cm : decode [0xFC, 0x34, 0x12] = .ok (.cm 0x1234, []) := rfl
theorem test_decode_ret : decode [0xC9] = .ok (.ret, []) := rfl
theorem test_decode_rnz : decode [0xC0] = .ok (.rnz, []) := rfl
theorem test_decode_rz : decode [0xC8] = .ok (.rz, []) := rfl
theorem test_decode_rnc : decode [0xD0] = .ok (.rnc, []) := rfl
theorem test_decode_rc : decode [0xD8] = .ok (.rc, []) := rfl
theorem test_decode_rpo : decode [0xE0] = .ok (.rpo, []) := rfl
theorem test_decode_rpe : decode [0xE8] = .ok (.rpe, []) := rfl
theorem test_decode_rp : decode [0xF0] = .ok (.rp, []) := rfl
theorem test_decode_rm : decode [0xF8] = .ok (.rm, []) := rfl
theorem test_decode_rst : decode [0xEF] = .ok (.rst 5, []) := rfl
theorem test_decode_pchl : decode [0xE9] = .ok (.pchl, []) := rfl
theorem test_decode_push : decode [0xF5] = .ok (.push .psw, []) := rfl
theorem test_decode_pop : decode [0xD1] = .ok (.pop .d, []) := rfl
theorem test_decode_xthl : decode [0xE3] = .ok (.xthl, []) := rfl
theorem test_decode_sphl : decode [0xF9] = .ok (.sphl, []) := rfl
theorem test_decode_inPort : decode [0xDB, 0x10] = .ok (.inPort 0x10, []) := rfl
theorem test_decode_outPort : decode [0xD3, 0x11] = .ok (.outPort 0x11, []) := rfl
theorem test_decode_ei : decode [0xFB] = .ok (.ei, []) := rfl
theorem test_decode_di : decode [0xF3] = .ok (.di, []) := rfl
theorem test_decode_hlt : decode [0x76] = .ok (.hlt, []) := rfl
theorem test_decode_nop : decode [0x00] = .ok (.nop, []) := rfl

/-- The table's numbering: bit 0 is the least significant bit of the first byte. -/
theorem test_decodeTableWord_call : decodeTableWord 24 0x1234CD = some (.call 0x1234) := rfl

/-- Every bit from nbits up is 0. -/
theorem test_decodeTableWord_short : decodeTableWord 8 0x1234CD = some (.call 0x0000) := rfl

/-! ## One step each, from the vectors of 95_test_vectors.md -/

/-- A state with these memory cells, pc and SP, and everything else as after reset. -/
def start (pc sp : Word) (cells : List (Nat × Byte)) : State :=
  { State.reset with pc := pc, sp := sp, mem := cells.foldl (fun m x => Memory.write m x.1 x.2) [] }

/-- The step has a next state of which the check holds. -/
def after (s : State) (check : State → Bool) : Bool :=
  match step s with
  | .next t => check t
  | .fault _ => false
  | .refused _ => false

theorem test_T4_mov : after { start 0x0100 0x0000 [(0x0100, 0x6E), (0x2010, 0x77)] with h := 0x20, l := 0x10 }
    (fun t => t.l == 0x77 && t.pc == 0x0101) = true := by decide +kernel
theorem test_T6_mov : after { start 0x0100 0x0000 [(0x0100, 0x74)] with h := 0x20, l := 0x10 }
    (fun t => t.peek 0x2010 == 0x20 && t.pc == 0x0101) = true := by decide +kernel
theorem test_T7_mvi : after (start 0x0100 0x0000 [(0x0100, 0x06), (0x0101, 0xFF)])
    (fun t => t.b == 0xFF && t.pc == 0x0102) = true := by decide +kernel
theorem test_T8_mvi : after { start 0x0100 0x0000 [(0x0100, 0x36), (0x0101, 0x00), (0xFFFF, 0x55)]
      with h := 0xFF, l := 0xFF }
    (fun t => t.peek 0xFFFF == 0x00 && t.pc == 0x0102) = true := by decide +kernel
theorem test_T9_lxi : after (start 0x0100 0x0000 [(0x0100, 0x01), (0x0101, 0xEF), (0x0102, 0xBE)])
    (fun t => t.b == 0xBE && t.c == 0xEF && t.pc == 0x0103) = true := by decide +kernel
theorem test_T10_lxi : after (start 0x0100 0x0000 [(0x0100, 0x31), (0x0101, 0x00), (0x0102, 0x00)])
    (fun t => t.sp == 0x0000 && t.pc == 0x0103) = true := by decide +kernel
theorem test_T11_lda : after (start 0x0100 0x0000 [(0x0100, 0x3A), (0x0101, 0xFF), (0x0102, 0xFF), (0xFFFF, 0x9C)])
    (fun t => t.a == 0x9C && t.pc == 0x0103) = true := by decide +kernel
theorem test_T12_sta : after { start 0x0100 0x0000 [(0x0100, 0x32), (0x0101, 0x00), (0x0102, 0x00)] with a := 0x76 }
    (fun t => t.peek 0x0000 == 0x76 && t.pc == 0x0103) = true := by decide +kernel
theorem test_T13_lhld :
    after (start 0x0100 0x0000 [(0x0100, 0x2A), (0x0101, 0xFF), (0x0102, 0xFF), (0x0000, 0x12), (0xFFFF, 0x34)])
    (fun t => t.h == 0x12 && t.l == 0x34 && t.pc == 0x0103) = true := by decide +kernel
theorem test_T14_shld : after { start 0x0100 0x0000 [(0x0100, 0x22), (0x0101, 0x00), (0x0102, 0x20)]
      with h := 0xAA, l := 0x55 }
    (fun t => t.peek 0x2000 == 0x55 && t.peek 0x2001 == 0xAA && t.pc == 0x0103) = true := by decide +kernel
theorem test_T15_ldax : after { start 0x0100 0x0000 [(0x0100, 0x0A), (0x3001, 0x42)] with b := 0x30, c := 0x01 }
    (fun t => t.a == 0x42 && t.pc == 0x0101) = true := by decide +kernel
theorem test_T16_ldax : after { start 0x0100 0x0000 [(0x0100, 0x1A), (0x3002, 0x43)] with d := 0x30, e := 0x02 }
    (fun t => t.a == 0x43 && t.pc == 0x0101) = true := by decide +kernel
theorem test_T17_stax : after { start 0x0100 0x0000 [(0x0100, 0x02)] with a := 0x99, b := 0x30, c := 0x03 }
    (fun t => t.peek 0x3003 == 0x99 && t.pc == 0x0101) = true := by decide +kernel
theorem test_T18_stax : after { start 0x0100 0x0000 [(0x0100, 0x12)] with a := 0x98, d := 0x30, e := 0x04 }
    (fun t => t.peek 0x3004 == 0x98 && t.pc == 0x0101) = true := by decide +kernel
theorem test_T19_xchg : after { start 0x0100 0x0000 [(0x0100, 0xEB)] with d := 0xAB, e := 0xCD, h := 0x12, l := 0x34 }
    (fun t => t.d == 0x12 && t.e == 0x34 && t.h == 0xAB && t.l == 0xCD && t.pc == 0x0101) = true := by decide +kernel
theorem test_A1_add : after { start 0x0100 0x0000 [(0x0100, 0x80)] with a := 0xFF, b := 0x01 }
    (fun t => t.a == 0x00 && t.flags.z && !t.flags.s && t.flags.p && t.flags.cy && t.flags.ac &&
      t.pc == 0x0101) = true := by decide +kernel
theorem test_A4_add : after { start 0x0100 0x0000 [(0x0100, 0x86), (0x2000, 0x0F)]
      with a := 0x10, h := 0x20, l := 0x00 }
    (fun t => t.a == 0x1F && !t.flags.z && !t.flags.s && !t.flags.p && !t.flags.cy && !t.flags.ac &&
      t.pc == 0x0101) = true := by decide +kernel
theorem test_A6_adi : after { start 0x0100 0x0000 [(0x0100, 0xC6), (0x0101, 0x0F)] with a := 0x01 }
    (fun t => t.a == 0x10 && !t.flags.z && !t.flags.s && !t.flags.p && !t.flags.cy && t.flags.ac &&
      t.pc == 0x0102) = true := by decide +kernel
theorem test_A7_adc : after { start 0x0100 0x0000 [(0x0100, 0x8A)]
      with a := 0xFF, d := 0x00, flags := { z := false, s := false, p := false, cy := true, ac := false } }
    (fun t => t.a == 0x00 && t.flags.z && !t.flags.s && t.flags.p && t.flags.cy && t.flags.ac &&
      t.pc == 0x0101) = true := by decide +kernel
theorem test_A8_adc : after { start 0x0100 0x0000 [(0x0100, 0x8A)]
      with a := 0x0F, d := 0x00, flags := { z := false, s := false, p := false, cy := true, ac := false } }
    (fun t => t.a == 0x10 && !t.flags.z && !t.flags.s && !t.flags.p && !t.flags.cy && t.flags.ac &&
      t.pc == 0x0101) = true := by decide +kernel
theorem test_A9_aci : after { start 0x0100 0x0000 [(0x0100, 0xCE), (0x0101, 0xFF)]
      with a := 0xFF, flags := { z := false, s := false, p := false, cy := true, ac := false } }
    (fun t => !t.flags.z && t.flags.s && t.flags.p && t.flags.cy && t.flags.ac && t.pc == 0x0102) = true := by
      decide +kernel
theorem test_A11_sub : after { start 0x0100 0x0000 [(0x0100, 0x90)] with a := 0x80, b := 0x01 }
    (fun t => t.a == 0x7F && !t.flags.z && !t.flags.s && !t.flags.p && !t.flags.cy && !t.flags.ac &&
      t.pc == 0x0101) = true := by decide +kernel
theorem test_A13_sub : after { start 0x0100 0x0000 [(0x0100, 0x96), (0x2000, 0x50)]
      with a := 0x50, h := 0x20, l := 0x00 }
    (fun t => t.a == 0x00 && t.flags.z && !t.flags.s && t.flags.p && !t.flags.cy && t.flags.ac &&
      t.pc == 0x0101) = true := by decide +kernel
theorem test_A14_sui : after { start 0x0100 0x0000 [(0x0100, 0xD6), (0x0101, 0x10)] with a := 0x0F }
    (fun t => t.a == 0xFF && !t.flags.z && t.flags.s && t.flags.p && t.flags.cy && t.flags.ac &&
      t.pc == 0x0102) = true := by decide +kernel
theorem test_A15_sbb : after { start 0x0100 0x0000 [(0x0100, 0x9B)]
      with a := 0x00, e := 0xFF, flags := { z := false, s := false, p := false, cy := true, ac := false } }
    (fun t => t.flags.z && !t.flags.s && t.flags.p && t.flags.cy && !t.flags.ac && t.pc == 0x0101) = true := by
      decide +kernel
theorem test_A16_sbb : after { start 0x0100 0x0000 [(0x0100, 0x9B)]
      with a := 0x10, e := 0x0F, flags := { z := false, s := false, p := false, cy := true, ac := false } }
    (fun t => t.a == 0x00 && t.flags.z && !t.flags.s && t.flags.p && !t.flags.cy && !t.flags.ac &&
      t.pc == 0x0101) = true := by decide +kernel
theorem test_A17_sbi : after { start 0x0100 0x0000 [(0x0100, 0xDE), (0x0101, 0x00)]
      with a := 0x00, flags := { z := false, s := false, p := false, cy := true, ac := false } }
    (fun t => t.a == 0xFF && !t.flags.z && t.flags.s && t.flags.p && t.flags.cy && !t.flags.ac &&
      t.pc == 0x0102) = true := by decide +kernel
theorem test_A18_inr : after { start 0x0100 0x0000 [(0x0100, 0x3C)]
      with a := 0xFF, flags := { z := false, s := false, p := false, cy := false, ac := false } }
    (fun t => t.a == 0x00 && t.flags.z && !t.flags.s && t.flags.p && !t.flags.cy && t.flags.ac &&
      t.pc == 0x0101) = true := by decide +kernel
theorem test_A20_inr : after { start 0x0100 0x0000 [(0x0100, 0x34), (0x2000, 0x0F)] with h := 0x20, l := 0x00 }
    (fun t => !t.flags.z && !t.flags.s && !t.flags.p && t.flags.ac && t.peek 0x2000 == 0x10 &&
      t.pc == 0x0101) = true := by decide +kernel
theorem test_A21_dcr : after { start 0x0100 0x0000 [(0x0100, 0x3D)]
      with a := 0x00, flags := { z := false, s := false, p := false, cy := false, ac := false } }
    (fun t => t.a == 0xFF && !t.flags.z && t.flags.s && t.flags.p && !t.flags.cy && !t.flags.ac &&
      t.pc == 0x0101) = true := by decide +kernel
theorem test_A23_dcr : after { start 0x0100 0x0000 [(0x0100, 0x35), (0x2000, 0x01)] with h := 0x20, l := 0x00 }
    (fun t => t.flags.z && !t.flags.s && t.flags.p && t.flags.ac && t.peek 0x2000 == 0x00 &&
      t.pc == 0x0101) = true := by decide +kernel
theorem test_A24_inx : after { start 0x0100 0x0000 [(0x0100, 0x03)] with b := 0xFF, c := 0xFF }
    (fun t => t.b == 0x00 && t.c == 0x00 && t.pc == 0x0101) = true := by decide +kernel
theorem test_A25_inx : after (start 0x0100 0xFFFF [(0x0100, 0x33)])
    (fun t => t.sp == 0x0000 && t.pc == 0x0101) = true := by decide +kernel
theorem test_A26_dcx : after { start 0x0100 0x0000 [(0x0100, 0x1B)] with d := 0x00, e := 0x00 }
    (fun t => t.d == 0xFF && t.e == 0xFF && t.pc == 0x0101) = true := by decide +kernel
theorem test_A27_dcx : after (start 0x0100 0x0000 [(0x0100, 0x3B)])
    (fun t => t.sp == 0xFFFF && t.pc == 0x0101) = true := by decide +kernel
theorem test_A28_dad : after { start 0x0100 0x0000 [(0x0100, 0x09)] with b := 0x00, c := 0x01, h := 0xFF, l := 0xFF }
    (fun t => t.h == 0x00 && t.l == 0x00 && t.flags.cy && t.pc == 0x0101) = true := by decide +kernel
theorem test_A30_dad : after { start 0x0100 0x23FE [(0x0100, 0x39)] with h := 0x00, l := 0x00 }
    (fun t => t.h == 0x23 && t.l == 0xFE && !t.flags.cy && t.pc == 0x0101) = true := by decide +kernel
theorem test_A34_daa : after { start 0x0100 0x0000 [(0x0100, 0x27)]
      with a := 0x12, flags := { z := false, s := false, p := false, cy := false, ac := true } }
    (fun t => t.a == 0x18 && !t.flags.z && !t.flags.s && t.flags.p && !t.flags.cy && !t.flags.ac &&
      t.pc == 0x0101) = true := by decide +kernel
theorem test_A39_daa : after { start 0x0100 0x0000 [(0x0100, 0x27)]
      with a := 0xFA, flags := { z := false, s := false, p := false, cy := false, ac := false } }
    (fun t => t.a == 0x60 && !t.flags.z && !t.flags.s && t.flags.p && t.flags.cy && t.flags.ac &&
      t.pc == 0x0101) = true := by decide +kernel
theorem test_L1_ana : after { start 0x0100 0x0000 [(0x0100, 0xA0)]
      with a := 0xF0, b := 0x0F, flags := { z := false, s := false, p := false, cy := true, ac := false } }
    (fun t => t.a == 0x00 && t.flags.z && !t.flags.s && t.flags.p && !t.flags.cy && t.pc == 0x0101) = true := by
      decide +kernel
theorem test_L3_ana : after { start 0x0100 0x0000 [(0x0100, 0xA6), (0x2000, 0x3C)]
      with a := 0xFF, h := 0x20, l := 0x00 }
    (fun t => t.a == 0x3C && !t.flags.z && !t.flags.s && t.flags.p && !t.flags.cy && t.pc == 0x0101) = true := by
      decide +kernel
theorem test_L4_ani : after { start 0x0100 0x0000 [(0x0100, 0xE6), (0x0101, 0x00)]
      with a := 0xFF, flags := { z := false, s := false, p := false, cy := true, ac := true } }
    (fun t => t.a == 0x00 && t.flags.z && !t.flags.s && t.flags.p && !t.flags.cy && !t.flags.ac &&
      t.pc == 0x0102) = true := by decide +kernel
theorem test_L5_xra : after { start 0x0100 0x0000 [(0x0100, 0xAF)]
      with a := 0x5D, flags := { z := false, s := false, p := false, cy := true, ac := true } }
    (fun t => t.a == 0x00 && t.flags.z && !t.flags.s && t.flags.p && !t.flags.cy && !t.flags.ac &&
      t.pc == 0x0101) = true := by decide +kernel
theorem test_L6_xra : after { start 0x0100 0x0000 [(0x0100, 0xAE), (0x2000, 0x0F)]
      with a := 0xFF, h := 0x20, l := 0x00 }
    (fun t => t.a == 0xF0 && !t.flags.z && t.flags.s && t.flags.p && !t.flags.cy && !t.flags.ac &&
      t.pc == 0x0101) = true := by decide +kernel
theorem test_L7_xri : after { start 0x0100 0x0000 [(0x0100, 0xEE), (0x0101, 0xFF)] with a := 0x0F }
    (fun t => t.a == 0xF0 && !t.flags.z && t.flags.s && t.flags.p && !t.flags.cy && !t.flags.ac &&
      t.pc == 0x0102) = true := by decide +kernel
theorem test_L8_ora : after { start 0x0100 0x0000 [(0x0100, 0xB7)]
      with a := 0x00, flags := { z := false, s := false, p := false, cy := true, ac := false } }
    (fun t => t.flags.z && !t.flags.s && t.flags.p && !t.flags.cy && !t.flags.ac && t.pc == 0x0101) = true := by
      decide +kernel
theorem test_L9_ora : after { start 0x0100 0x0000 [(0x0100, 0xB6), (0x2000, 0x01)]
      with a := 0x80, h := 0x20, l := 0x00 }
    (fun t => t.a == 0x81 && !t.flags.z && t.flags.s && t.flags.p && !t.flags.cy && !t.flags.ac &&
      t.pc == 0x0101) = true := by decide +kernel
theorem test_L10_ori : after { start 0x0100 0x0000 [(0x0100, 0xF6), (0x0101, 0x80)] with a := 0x01 }
    (fun t => t.a == 0x81 && !t.flags.z && t.flags.s && t.flags.p && !t.flags.cy && !t.flags.ac &&
      t.pc == 0x0102) = true := by decide +kernel
theorem test_L12_cmp : after { start 0x0100 0x0000 [(0x0100, 0xB8)] with a := 0x01, b := 0x02 }
    (fun t => !t.flags.z && t.flags.s && t.flags.p && t.flags.cy && !t.flags.ac && t.pc == 0x0101) = true := by
      decide +kernel
theorem test_L14_cmp : after { start 0x0100 0x0000 [(0x0100, 0xBE), (0x2000, 0xFF)]
      with a := 0x00, h := 0x20, l := 0x00 }
    (fun t => !t.flags.z && !t.flags.s && !t.flags.p && t.flags.cy && !t.flags.ac && t.pc == 0x0101) = true := by
      decide +kernel
theorem test_L16_cpi : after { start 0x0100 0x0000 [(0x0100, 0xFE), (0x0101, 0x00)] with a := 0x00 }
    (fun t => t.flags.z && !t.flags.s && t.flags.p && !t.flags.cy && t.flags.ac && t.pc == 0x0102) = true := by
      decide +kernel
theorem test_L17_cpi : after { start 0x0100 0x0000 [(0x0100, 0xFE), (0x0101, 0xFF)] with a := 0xFE }
    (fun t => !t.flags.z && t.flags.s && t.flags.p && t.flags.cy && !t.flags.ac && t.pc == 0x0102) = true := by
      decide +kernel
theorem test_L18_rlc : after { start 0x0100 0x0000 [(0x0100, 0x07)]
      with a := 0x80, flags := { z := false, s := false, p := false, cy := false, ac := false } }
    (fun t => t.a == 0x01 && t.flags.cy && t.pc == 0x0101) = true := by decide +kernel
theorem test_L19_rlc : after { start 0x0100 0x0000 [(0x0100, 0x07)]
      with a := 0x00, flags := { z := false, s := false, p := false, cy := true, ac := false } }
    (fun t => !t.flags.cy && t.pc == 0x0101) = true := by decide +kernel
theorem test_L20_rrc : after { start 0x0100 0x0000 [(0x0100, 0x0F)]
      with a := 0x01, flags := { z := false, s := false, p := false, cy := false, ac := false } }
    (fun t => t.a == 0x80 && t.flags.cy && t.pc == 0x0101) = true := by decide +kernel
theorem test_L21_ral : after { start 0x0100 0x0000 [(0x0100, 0x17)]
      with a := 0x80, flags := { z := false, s := false, p := false, cy := false, ac := false } }
    (fun t => t.a == 0x00 && t.flags.cy && t.pc == 0x0101) = true := by decide +kernel
theorem test_L22_ral : after { start 0x0100 0x0000 [(0x0100, 0x17)]
      with a := 0x00, flags := { z := false, s := false, p := false, cy := true, ac := false } }
    (fun t => t.a == 0x01 && !t.flags.cy && t.pc == 0x0101) = true := by decide +kernel
theorem test_L23_rar : after { start 0x0100 0x0000 [(0x0100, 0x1F)]
      with a := 0x01, flags := { z := false, s := false, p := false, cy := false, ac := false } }
    (fun t => t.a == 0x00 && t.flags.cy && t.pc == 0x0101) = true := by decide +kernel
theorem test_L24_rar : after { start 0x0100 0x0000 [(0x0100, 0x1F)]
      with a := 0x00, flags := { z := false, s := false, p := false, cy := true, ac := false } }
    (fun t => t.a == 0x80 && !t.flags.cy && t.pc == 0x0101) = true := by decide +kernel
theorem test_L25_cma : after { start 0x0100 0x0000 [(0x0100, 0x2F)]
      with a := 0x00, flags := { z := true, s := false, p := false, cy := false, ac := false } }
    (fun t => t.a == 0xFF && t.flags.z && !t.flags.cy && t.pc == 0x0101) = true := by decide +kernel
theorem test_L26_cmc : after { start 0x0100 0x0000 [(0x0100, 0x3F)]
      with flags := { z := false, s := false, p := false, cy := false, ac := false } }
    (fun t => t.flags.cy && t.pc == 0x0101) = true := by decide +kernel
theorem test_L27_stc : after { start 0x0100 0x0000 [(0x0100, 0x37)]
      with flags := { z := false, s := false, p := false, cy := true, ac := false } }
    (fun t => t.flags.cy && t.pc == 0x0101) = true := by decide +kernel
theorem test_B1_jmp : after (start 0x0100 0x0000 [(0x0100, 0xC3), (0x0101, 0x00), (0x0102, 0x01)])
    (fun t => t.pc == 0x0100) = true := by decide +kernel
theorem test_B11_jmp : after (start 0xFFFE 0x0000 [(0xFFFE, 0xC3), (0xFFFF, 0x34), (0x0000, 0x12)])
    (fun t => t.pc == 0x1234) = true := by decide +kernel
theorem test_B2_jnz : after { start 0x0100 0x0000 [(0x0100, 0xC2), (0x0101, 0x00), (0x0102, 0x20)]
      with flags := { z := false, s := false, p := false, cy := false, ac := false } }
    (fun t => !t.flags.z && t.pc == 0x2000) = true := by decide +kernel
theorem test_B3_jnz : after { start 0x0100 0x0000 [(0x0100, 0xC2), (0x0101, 0x00), (0x0102, 0x20)]
      with flags := { z := true, s := false, p := false, cy := false, ac := false } }
    (fun t => t.flags.z && t.pc == 0x0103) = true := by decide +kernel
theorem test_B4_jz : after { start 0x0100 0x0000 [(0x0100, 0xCA), (0x0101, 0x00), (0x0102, 0x20)]
      with flags := { z := true, s := false, p := false, cy := false, ac := false } }
    (fun t => t.flags.z && t.pc == 0x2000) = true := by decide +kernel
theorem test_B5_jnc : after { start 0x0100 0x0000 [(0x0100, 0xD2), (0x0101, 0x00), (0x0102, 0x20)]
      with flags := { z := false, s := false, p := false, cy := true, ac := false } }
    (fun t => t.flags.cy && t.pc == 0x0103) = true := by decide +kernel
theorem test_B6_jc : after { start 0x0100 0x0000 [(0x0100, 0xDA), (0x0101, 0x00), (0x0102, 0x20)]
      with flags := { z := false, s := false, p := false, cy := true, ac := false } }
    (fun t => t.flags.cy && t.pc == 0x2000) = true := by decide +kernel
theorem test_B7_jpo : after { start 0x0100 0x0000 [(0x0100, 0xE2), (0x0101, 0x00), (0x0102, 0x20)]
      with flags := { z := false, s := false, p := false, cy := false, ac := false } }
    (fun t => !t.flags.p && t.pc == 0x2000) = true := by decide +kernel
theorem test_B8_jpe : after { start 0x0100 0x0000 [(0x0100, 0xEA), (0x0101, 0x00), (0x0102, 0x20)]
      with flags := { z := false, s := false, p := false, cy := false, ac := false } }
    (fun t => !t.flags.p && t.pc == 0x0103) = true := by decide +kernel
theorem test_B9_jp : after { start 0x0100 0x0000 [(0x0100, 0xF2), (0x0101, 0x00), (0x0102, 0x20)]
      with flags := { z := false, s := false, p := false, cy := false, ac := false } }
    (fun t => !t.flags.s && t.pc == 0x2000) = true := by decide +kernel
theorem test_B10_jm : after { start 0x0100 0x0000 [(0x0100, 0xFA), (0x0101, 0x00), (0x0102, 0x20)]
      with flags := { z := false, s := false, p := false, cy := false, ac := false } }
    (fun t => !t.flags.s && t.pc == 0x0103) = true := by decide +kernel
theorem test_B12_call : after (start 0x0100 0x2400 [(0x0100, 0xCD), (0x0101, 0x00), (0x0102, 0x20)])
    (fun t => t.sp == 0x23FE && t.peek 0x23FF == 0x01 && t.peek 0x23FE == 0x03 && t.pc == 0x2000) = true := by
      decide +kernel
theorem test_B13_call : after (start 0x0100 0x0001 [(0x0100, 0xCD), (0x0101, 0x00), (0x0102, 0x20)])
    (fun t => t.sp == 0xFFFF && t.peek 0x0000 == 0x01 && t.peek 0xFFFF == 0x03 && t.pc == 0x2000) = true := by
      decide +kernel
theorem test_B14_cnz : after { start 0x0100 0x2400 [(0x0100, 0xC4), (0x0101, 0x00), (0x0102, 0x20)]
      with flags := { z := true, s := false, p := false, cy := false, ac := false } }
    (fun t => t.flags.z && t.pc == 0x0103) = true := by decide +kernel
theorem test_B15_cz : after { start 0x0100 0x2400 [(0x0100, 0xCC), (0x0101, 0x00), (0x0102, 0x20)]
      with flags := { z := true, s := false, p := false, cy := false, ac := false } }
    (fun t => t.sp == 0x23FE && t.flags.z && t.peek 0x23FF == 0x01 && t.peek 0x23FE == 0x03 &&
      t.pc == 0x2000) = true := by decide +kernel
theorem test_B16_cnc : after { start 0x0100 0x2400 [(0x0100, 0xD4), (0x0101, 0x00), (0x0102, 0x20)]
      with flags := { z := false, s := false, p := false, cy := false, ac := false } }
    (fun t => t.sp == 0x23FE && !t.flags.cy && t.peek 0x23FF == 0x01 && t.peek 0x23FE == 0x03 &&
      t.pc == 0x2000) = true := by decide +kernel
theorem test_B17_cc : after { start 0x0100 0x2400 [(0x0100, 0xDC), (0x0101, 0x00), (0x0102, 0x20)]
      with flags := { z := false, s := false, p := false, cy := false, ac := false } }
    (fun t => !t.flags.cy && t.pc == 0x0103) = true := by decide +kernel
theorem test_B18_cpo : after { start 0x0100 0x2400 [(0x0100, 0xE4), (0x0101, 0x00), (0x0102, 0x20)]
      with flags := { z := false, s := false, p := true, cy := false, ac := false } }
    (fun t => t.flags.p && t.pc == 0x0103) = true := by decide +kernel
theorem test_B19_cpe : after { start 0x0100 0x2400 [(0x0100, 0xEC), (0x0101, 0x00), (0x0102, 0x20)]
      with flags := { z := false, s := false, p := true, cy := false, ac := false } }
    (fun t => t.sp == 0x23FE && t.flags.p && t.peek 0x23FF == 0x01 && t.peek 0x23FE == 0x03 &&
      t.pc == 0x2000) = true := by decide +kernel
theorem test_B20_cp : after { start 0x0100 0x2400 [(0x0100, 0xF4), (0x0101, 0x00), (0x0102, 0x20)]
      with flags := { z := false, s := true, p := false, cy := false, ac := false } }
    (fun t => t.flags.s && t.pc == 0x0103) = true := by decide +kernel
theorem test_B21_cm : after { start 0x0100 0x2400 [(0x0100, 0xFC), (0x0101, 0x00), (0x0102, 0x20)]
      with flags := { z := false, s := true, p := false, cy := false, ac := false } }
    (fun t => t.sp == 0x23FE && t.flags.s && t.peek 0x23FF == 0x01 && t.peek 0x23FE == 0x03 &&
      t.pc == 0x2000) = true := by decide +kernel
theorem test_B22_ret : after (start 0x0100 0x23FE [(0x0100, 0xC9), (0x23FE, 0x03), (0x23FF, 0x01)])
    (fun t => t.sp == 0x2400 && t.pc == 0x0103) = true := by decide +kernel
theorem test_B23_ret : after (start 0x0100 0xFFFF [(0x0100, 0xC9), (0x0000, 0x56), (0xFFFF, 0x78)])
    (fun t => t.sp == 0x0001 && t.pc == 0x5678) = true := by decide +kernel
theorem test_B24_rnz : after { start 0x0100 0x23FE [(0x0100, 0xC0), (0x23FE, 0x03), (0x23FF, 0x01)]
      with flags := { z := false, s := false, p := false, cy := false, ac := false } }
    (fun t => t.sp == 0x2400 && !t.flags.z && t.pc == 0x0103) = true := by decide +kernel
theorem test_B25_rz : after { start 0x0100 0x23FE [(0x0100, 0xC8), (0x23FE, 0x03), (0x23FF, 0x01)]
      with flags := { z := false, s := false, p := false, cy := false, ac := false } }
    (fun t => !t.flags.z && t.pc == 0x0101) = true := by decide +kernel
theorem test_B26_rnc : after { start 0x0100 0x23FE [(0x0100, 0xD0), (0x23FE, 0x03), (0x23FF, 0x01)]
      with flags := { z := false, s := false, p := false, cy := true, ac := false } }
    (fun t => t.flags.cy && t.pc == 0x0101) = true := by decide +kernel
theorem test_B27_rc : after { start 0x0100 0x23FE [(0x0100, 0xD8), (0x23FE, 0x03), (0x23FF, 0x01)]
      with flags := { z := false, s := false, p := false, cy := true, ac := false } }
    (fun t => t.sp == 0x2400 && t.flags.cy && t.pc == 0x0103) = true := by decide +kernel
theorem test_B28_rpo : after { start 0x0100 0x23FE [(0x0100, 0xE0), (0x23FE, 0x03), (0x23FF, 0x01)]
      with flags := { z := false, s := false, p := false, cy := false, ac := false } }
    (fun t => t.sp == 0x2400 && !t.flags.p && t.pc == 0x0103) = true := by decide +kernel
theorem test_B29_rpe : after { start 0x0100 0x23FE [(0x0100, 0xE8), (0x23FE, 0x03), (0x23FF, 0x01)]
      with flags := { z := false, s := false, p := false, cy := false, ac := false } }
    (fun t => !t.flags.p && t.pc == 0x0101) = true := by decide +kernel
theorem test_B30_rp : after { start 0x0100 0x23FE [(0x0100, 0xF0), (0x23FE, 0x03), (0x23FF, 0x01)]
      with flags := { z := false, s := false, p := false, cy := false, ac := false } }
    (fun t => t.sp == 0x2400 && !t.flags.s && t.pc == 0x0103) = true := by decide +kernel
theorem test_B31_rm : after { start 0x0100 0x23FE [(0x0100, 0xF8), (0x23FE, 0x03), (0x23FF, 0x01)]
      with flags := { z := false, s := false, p := false, cy := false, ac := false } }
    (fun t => !t.flags.s && t.pc == 0x0101) = true := by decide +kernel
theorem test_B33_rst : after (start 0x0100 0x2400 [(0x0100, 0xFF)])
    (fun t => t.sp == 0x23FE && t.peek 0x23FF == 0x01 && t.peek 0x23FE == 0x01 && t.pc == 0x0038) = true := by
      decide +kernel
theorem test_B34_rst : after (start 0xFFFF 0x2400 [(0xFFFF, 0xDF)])
    (fun t => t.sp == 0x23FE && t.peek 0x23FF == 0x00 && t.peek 0x23FE == 0x00 && t.pc == 0x0018) = true := by
      decide +kernel
theorem test_B35_pchl : after { start 0x0100 0x0000 [(0x0100, 0xE9)] with h := 0x41, l := 0x3E }
    (fun t => t.pc == 0x413E) = true := by decide +kernel
theorem test_S2_push : after { start 0x0100 0x0000 [(0x0100, 0xE5)] with h := 0xAB, l := 0xCD }
    (fun t => t.sp == 0xFFFE && t.peek 0xFFFF == 0xAB && t.peek 0xFFFE == 0xCD && t.pc == 0x0101) = true := by
      decide +kernel
theorem test_S4_push : after { start 0x0100 0x2400 [(0x0100, 0xF5)]
      with a := 0x00, flags := { z := true, s := true, p := true, cy := true, ac := true } }
    (fun t => t.sp == 0x23FE && t.flags.z && t.flags.s && t.flags.p && t.flags.cy && t.flags.ac &&
      t.peek 0x23FF == 0x00 && t.peek 0x23FE == 0xD7 && t.pc == 0x0101) = true := by decide +kernel
theorem test_S5_pop : after (start 0x0100 0x23FE [(0x0100, 0xD1), (0x23FE, 0xCD), (0x23FF, 0xAB)])
    (fun t => t.d == 0xAB && t.e == 0xCD && t.sp == 0x2400 && t.pc == 0x0101) = true := by decide +kernel
theorem test_S6_pop : after (start 0x0100 0x23FE [(0x0100, 0xF1), (0x23FE, 0xFF), (0x23FF, 0x12)])
    (fun t => t.a == 0x12 && t.sp == 0x2400 && t.flags.z && t.flags.s && t.flags.p && t.flags.cy && t.flags.ac &&
      t.pc == 0x0101) = true := by decide +kernel
theorem test_S8_xthl : after { start 0x0100 0x10AD [(0x0100, 0xE3), (0x10AD, 0xF0), (0x10AE, 0x0D)]
      with h := 0x0B, l := 0x3C }
    (fun t => t.h == 0x0D && t.l == 0xF0 && t.peek 0x10AD == 0x3C && t.peek 0x10AE == 0x0B &&
      t.pc == 0x0101) = true := by decide +kernel
theorem test_S9_sphl : after { start 0x0100 0x0000 [(0x0100, 0xF9)] with h := 0x50, l := 0x6C }
    (fun t => t.sp == 0x506C && t.pc == 0x0101) = true := by decide +kernel
theorem test_S10_in : after { start 0x0100 0x0000 [(0x0100, 0xDB), (0x0101, 0x10)] with a := 0x00, answers := [0x5A] }
    (fun t => t.a == 0x5A && t.pc == 0x0102 && t.events == [.input (.port 0x10) 0x5A]) = true := by decide +kernel
theorem test_S11_out : after { start 0x0100 0x0000 [(0x0100, 0xD3), (0x0101, 0x01)] with a := 0x41 }
    (fun t => t.events == [.output (.port 0x01) 0x41] && t.pc == 0x0102) = true := by decide +kernel
theorem test_S12_ei : after { start 0x0100 0x0000 [(0x0100, 0xFB)] with inte := false }
    (fun t => t.pc == 0x0101 && !t.inte && t.eiPending) = true := by decide +kernel
theorem test_S13_di : after { start 0x0100 0x0000 [(0x0100, 0xF3)] with inte := true }
    (fun t => t.pc == 0x0101 && !t.inte && !t.eiPending) = true := by decide +kernel
theorem test_S14_hlt : after { start 0x0100 0x0000 [(0x0100, 0x76)] with a := 0x11, inte := false }
    (fun t => t.pc == 0x0101 && t.halted && !t.inte && !t.eiPending) = true := by decide +kernel
theorem test_S15_nop : after (start 0x0100 0x0000 [(0x0100, 0x00)])
    (fun t => t.pc == 0x0101) = true := by decide +kernel

/-- The host's placing: the step runs the placed instruction first (log entry 13). -/
theorem test_withFetchWord_jmp : after (State.reset.withFetchWord 24 0x1234C3) (fun t => t.pc == 0x1234) = true := by decide +kernel

/-- R9: with a map that has nothing at pc, a request waiting and the processor stopped, the placed instruction still runs. -/
theorem test_withFetchWord_anywhere :
    after ({ start 0xFFFF 0 [] with
        memmap := [⟨0, 65535, .nothing⟩], boundaries := [⟨false, some 0xFF⟩], inte := true, halted := true }.withFetchWord 16 0x553E)
      (fun t => t.a == 0x55 && t.pc == 0x0001 && t.inte) = true := by decide +kernel

/-! ## Interrupts, stop and reset: the rows X of 95_test_vectors.md that are one step -/

/-- A request with a supplied byte at the coming boundary. -/
def request (b : Byte) : List Boundary := [{ reset := false, request := some b }]

theorem test_X5_accept : after { start 0x1234 0x2400 [] with inte := true, boundaries := request 0xEF }
    (fun t => t.pc == 0x0028 && t.sp == 0x23FE && t.peek 0x23FF == 0x12 && t.peek 0x23FE == 0x34 && !t.inte) = true := by
  decide +kernel
theorem test_X6_ignored : after { start 0x1234 0x2400 [] with boundaries := request 0xEF } (fun t => t.pc == 0x1235) = true := by
  decide +kernel
theorem test_X10_undefined : step (start 0x0100 0 [(0x0100, 0x08)]) = .fault (.undefinedOpcode 0x0100 0x08) := rfl
theorem test_X11_accept_before_fetch : after { start 0x0100 0x2400 [(0x0100, 0x08)] with inte := true, boundaries := request 0xD7 }
    (fun t => t.pc == 0x0010 && t.peek 0x23FF == 0x01 && t.peek 0x23FE == 0x00) = true := by decide +kernel
theorem test_X12_refused : step { start 0x0100 0x2400 [] with inte := true, boundaries := request 0xCD } =
    .refused (.unsupportedInterruptInstruction 0xCD) := rfl
theorem test_X13_reset : after { start 0x4321 0x2400 [(0x2000, 0x77)] with
      a := 0x12, b := 0x34, inte := true, eiPending := true, halted := true, boundaries := [⟨true, none⟩] }
    (fun t => t.pc == 0 && !t.inte && !t.eiPending && !t.halted && t.a == 0x12 && t.b == 0x34 && t.sp == 0x2400 &&
      t.peek 0x2000 == 0x77) = true := by decide +kernel

/-! ## Witnesses: for each obligation with hypotheses, a concrete state that meets them together, at boundary values -/

/-- ROM, a device and nothing, with RAM at the other addresses. -/
def mapped : State :=
  { start 0x0000 0x0001 [(0x0000, 0xC9)] with
    memmap := [⟨0x1000, 0x1FFF, .rom⟩, ⟨0xE000, 0xE0FF, .device⟩, ⟨0xF000, 0xFFFE, .nothing⟩], answers := [0x5A] }

/-- A state about to run the bytes at 0xFFFF and on, wrapping to 0x0000, with SP = 0x0001. -/
def atTop (bytes : List (Nat × Byte)) : State := start 0xFFFF 0x0001 bytes

theorem witness_DecodeOfEncodeIsIdentity : (Instr.mov (.reg .l) .m).wellFormed = true := rfl
theorem witness_EncodeOfDecodeIsIdentity : decode [0xC3, 0x34, 0x12, 0x00] = .ok (.jmp 0x1234, [0x00]) := rfl
theorem witness_ReadReturnsMostRecentWrite :
    Memory.wf mapped.mem = true ∧ mapped.kindAt 0xFFFF = .ram ∧ (0x1000#16 ≠ 0xFFFF#16 ∧ mapped.backed 0x1000 = true) := by
  decide +kernel
theorem witness_MemoryMapGovernsAccess_rom : mapped.kindAt 0x1000 = .rom ∧ mapped.kindAt 0x1FFF = .rom := by decide +kernel
theorem witness_MemoryMapGovernsAccess_nothing : mapped.kindAt 0xF000 = .nothing ∧ mapped.kindAt 0xFFFE = .nothing := by
  decide +kernel
theorem witness_MemoryMapGovernsAccess_device :
    mapped.kindAt 0xE000 = .device ∧ mapped.kindAt 0xE0FF = .device ∧ mapped.answers = 0x5A :: [] := by decide +kernel
theorem witness_MemoryMapGovernsAccess_first_region :
    mapped.memmap = [⟨0x1000, 0x1FFF, .rom⟩] ++ ⟨0xE000, 0xE0FF, .device⟩ :: [⟨0xF000, 0xFFFE, .nothing⟩] ∧
      (∀ q ∈ [(⟨0x1000, 0x1FFF, .rom⟩ : Region)], (0xE0FF#16).toNat < q.first ∨ q.last < (0xE0FF#16).toNat) ∧
      0xE000 ≤ (0xE0FF#16).toNat ∧ (0xE0FF#16).toNat ≤ 0xE0FF := by decide +kernel
theorem witness_MemoryMapGovernsAccess_unmapped :
    ∀ q ∈ mapped.memmap, (0xE100#16).toNat < q.first ∨ q.last < (0xE100#16).toNat := by decide +kernel

/-- Log entry 6: where two regions hold an address, the first says its kind. -/
theorem test_first_region_wins :
    { start 0 0 [] with memmap := [⟨0x1000, 0x1FFF, .rom⟩, ⟨0x0000, 0xFFFF, .device⟩] }.kindAt 0x1FFF = .rom := by decide +kernel
theorem witness_AccessOrderFollowsTable : ¬ (mapped.kindAt 0xE0FF = .device ∧ mapped.kindAt 0xE100 = .device) := by decide +kernel
theorem witness_DirectTransfersUseBytesTwoAndThree : (0xFFFF#16 : Word) = 0xFF#8 ++ 0xFF#8 := by decide
theorem witness_ShldThenLhldRestoresHL :
    Memory.wf mapped.mem = true ∧ mapped.kindAt 0xFFFF = .ram ∧ mapped.kindAt (0xFFFF + 1) = .ram := by decide +kernel
theorem witness_IncrementDecrementKeepCarry : src8 .m (atTop [(0x0000, 0xFF)]) = (0xFF, atTop [(0x0000, 0xFF)]) := by rfl
theorem witness_IncrementDecrementKeepCarry_reg : src8 (.reg .a) (atTop []) = (0x00, atTop []) := rfl
theorem witness_DaaAdjustsInTwoSteps :
    (0x00 : Nat) = (0xFA + (if 9 < 0xFA % 16 ∨ false = true then 6 else 0)) % 256 ∧
      (true = true ↔ 9 < 0x00 / 16 ∨ false = true ∨ 256 ≤ 0xFA + (if 9 < 0xFA % 16 ∨ false = true then 6 else 0)) := by decide
/-- HL = 0x2000 in RAM, which holds 99 as two decimal digits, as A does. -/
def decimal : State := { start 0 0 [(0x2000, 0x99)] with a := 0x99, h := 0x20, flags := ⟨false, false, false, true, false⟩ }

theorem witness_DaaAfterAdditionGivesDecimalSum :
    99 < 100 ∧ decimal.a = bcd 99 ∧ (src8 .m decimal).1 = bcd 99 ∧ (src8 (.reg .a) decimal).1 = bcd 99 := by decide +kernel
theorem witness_CallsPushNextAddress : ∃ next called : _, next = (atTop []).pc + 3 ∧
    called = { writeTwo ((atTop []).sp - 1) (next.extractLsb' 8 8) ((atTop []).sp - 2) (next.extractLsb' 0 8) (atTop []) with
      sp := (atTop []).sp - 2, pc := 0x12#8 ++ 0x34#8 } := ⟨_, _, rfl, rfl⟩
theorem witness_ReturnsPopPc : readTwo (start 0 0xFFFF []).sp ((start 0 0xFFFF []).sp + 1) (start 0 0xFFFF []) =
    ((0x00, 0x00), start 0 0xFFFF []) := by rfl
theorem witness_RstCallsEightTimesN : (0x0000#16 : Word) = (atTop []).pc + 1 := by decide +kernel
theorem witness_CallThenReturnComesBack : Memory.wf mapped.mem = true ∧ mapped.kindAt (mapped.sp - 1) = .ram ∧
    mapped.kindAt (mapped.sp - 2) = .ram := by decide +kernel
theorem witness_PushThenPopRestores : Memory.wf mapped.mem = true ∧ mapped.kindAt (mapped.sp - 1) = .ram ∧
    mapped.kindAt (mapped.sp - 2) = .ram := witness_CallThenReturnComesBack
theorem witness_PopLoadsTwoBytes : readTwo (start 0 0xFFFF [(0x0000, 0x12)]).sp ((start 0 0xFFFF [(0x0000, 0x12)]).sp + 1)
    (start 0 0xFFFF [(0x0000, 0x12)]) = ((0x00, 0x12), start 0 0xFFFF [(0x0000, 0x12)]) := by rfl
theorem witness_XthlExchangesAndSphlCopies :
    ∃ olds, exchangeTwo mapped.sp mapped.l (mapped.sp + 1) mapped.h mapped = olds ∧
      mapped.backed mapped.sp = true ∧ mapped.backed (mapped.sp + 1) = true ∧ Memory.wf mapped.mem = true ∧
      mapped.kindAt mapped.sp = .ram ∧ mapped.kindAt (mapped.sp + 1) = .ram :=
  ⟨_, rfl, by decide +kernel, by decide +kernel, by decide +kernel, by decide +kernel, by decide +kernel⟩

/-- CALL 0x1234 across the top of memory, with a pending enable. -/
def callAtTop : State := { atTop [(0xFFFF, 0xCD), (0x0000, 0x34), (0x0001, 0x12)] with eiPending := true }

theorem witness_StepRunsDecodedInstruction :
    Proceeds callAtTop ∧ StandsAtPc callAtTop [0xCD, 0x34, 0x12] ∧ Spells (.call 0x1234) [0xCD, 0x34, 0x12] := by
  refine ⟨?_, ?_, fun _ => rfl⟩
  · unfold Proceeds; decide +kernel
  · unfold StandsAtPc; decide +kernel
theorem witness_UndefinedOpcodeFaults : Proceeds (atTop [(0xFFFF, 0xFD)]) ∧ StandsAtPc (atTop [(0xFFFF, 0xFD)]) [0xFD] := by
  refine ⟨?_, ?_⟩
  · unfold Proceeds; decide +kernel
  · unfold StandsAtPc; decide +kernel

/-- A stopped processor with interrupts enabled and RST 7 requested, on the map with ROM, a device and nothing. -/
def requested : State := { mapped with inte := true, halted := true, boundaries := request (0b11#2 ++ 7#3 ++ 0b111#3) }

theorem witness_AcceptanceEntersHandler :
    requested.boundaries = { reset := false, request := some (0b11#2 ++ 7#3 ++ 0b111#3) } :: [] ∧ requested.inte = true ∧
      Memory.wf requested.mem = true ∧ requested.kindAt (requested.sp - 1) = .ram ∧
      requested.kindAt (requested.sp - 2) = .ram := by decide +kernel
theorem witness_AcceptanceEntersHandler_events :
    requested.kindAt (requested.sp - 1) ≠ .device ∧ requested.kindAt (requested.sp - 2) ≠ .device := by decide +kernel
theorem witness_HandlerReturnResumes :
    requested.boundaries = { reset := false, request := some (0b11#2 ++ 7#3 ++ 0b111#3) } :: [] ∧ requested.inte = true ∧
      Memory.wf requested.mem = true ∧ requested.kindAt (requested.sp - 1) = .ram ∧
      requested.kindAt (requested.sp - 2) = .ram := witness_AcceptanceEntersHandler
theorem witness_RequestsIgnoredOrRefused_ignored : { mapped with boundaries := request 0xFF }.inte = false := rfl
theorem witness_RequestsIgnoredOrRefused_refused :
    { requested with boundaries := request 0xCD }.inte = true ∧ ∀ n : BitVec 3, 0xCD#8 ≠ 0b11#2 ++ n ++ 0b111#3 := by
  decide +kernel
theorem witness_ResetWritesControlStateOnly :
    { requested with boundaries := [⟨true, some 0xFF⟩] }.boundaries = { reset := true, request := some 0xFF } :: [] := rfl
theorem witness_Stopped_end : ({ requested with inte := false } : State).halted = true ∧
    ({ requested with inte := false } : State).boundaryNow.reset = false ∧ ({ requested with inte := false } : State).inte = false := by
  decide +kernel
theorem witness_Stopped_wait : ({ requested with boundaries := [] } : State).halted = true ∧
    ({ requested with boundaries := [] } : State).boundaryNow.reset = false ∧
    ({ requested with boundaries := [] } : State).inte = true ∧
    ({ requested with boundaries := [] } : State).boundaryNow.request = none := by decide +kernel
theorem witness_Stopped_next : requested.halted = true ∧ ∃ t, step requested = .next t := ⟨rfl, _, rfl⟩

/-- EI at 0xFFFF with interrupts disabled, then DI at 0x0000 and NOP at 0x0001, and a request at the second boundary. -/
def enabling : State :=
  { atTop [(0xFFFF, 0xFB), (0x0000, 0xF3)] with boundaries := { reset := false, request := none } :: request 0xFF }

theorem witness_EiTakesEffectAfterNextInstruction :
    Proceeds { enabling with mem := [(0xFFFF, 0xFB)] } ∧ { enabling with mem := [(0xFFFF, 0xFB)] }.inte = false ∧
      StandsAtPc { enabling with mem := [(0xFFFF, 0xFB)] } [0xFB] ∧
      StandsAtPc { enabling with mem := [(0xFFFF, 0xFB)], pc := 0x0000, eiPending := true } [0x00] ∧ Spells .nop [0x00] := by
  refine ⟨?_, rfl, ?_, ?_, fun _ => rfl⟩
  · unfold Proceeds; decide +kernel
  · unfold StandsAtPc; decide +kernel
  · unfold StandsAtPc; decide +kernel
theorem witness_EiThenDiOpensNoWindow :
    Proceeds enabling ∧ enabling.inte = false ∧ StandsAtPc enabling [0xFB, 0xF3] ∧
      enabling.boundaries.tail = { reset := false, request := some 0xFF } :: [] := by
  refine ⟨?_, rfl, ?_, rfl⟩
  · unfold Proceeds; decide +kernel
  · unfold StandsAtPc; decide +kernel
theorem witness_EveryInstructionCompletes : (Instr.mov .m (.reg .h)).wellFormed = true := rfl
theorem witness_FlagsChangeOnlyAsTabled : (∃ t, exec (.inr .m) mapped = .next t) ∧ Flag.cy ∉ flagsWritten (.inr .m) :=
  ⟨⟨_, rfl⟩, by decide⟩
theorem witness_RegistersChangeOnlyAsTabled : (∃ t, exec .xchg mapped = .next t) ∧ Reg.a ∉ regsWritten .xchg := ⟨⟨_, rfl⟩, by decide⟩
theorem witness_MemoryChangesOnlyAtStoreAddresses :
    (∃ t, exec (.call 0) mapped = .next t) ∧ 0x0001#16 ∉ storeAddresses (.call 0) mapped := ⟨⟨_, rfl⟩, by decide +kernel⟩
theorem witness_ControlBitsChangeOnlyByTheirInstructions : ∃ t, exec .hlt mapped = .next t := ⟨_, rfl⟩
theorem witness_EnvironmentTouchedOnlyByTransfers :
    (∃ t, exec .xthl mapped = .next t) ∧ (∀ port, Instr.xthl ≠ .inPort port ∧ Instr.xthl ≠ .outPort port) ∧
      ∀ x, x ∈ loadAddresses .xthl mapped ∨ x ∈ storeAddresses .xthl mapped → mapped.kindAt x ≠ .device := by
  refine ⟨⟨_, rfl⟩, fun _ => ⟨by simp, by simp⟩, fun x hx => ?_⟩
  have hx' : x = 0x0001 ∨ x = 0x0002 := by simpa [loadAddresses, storeAddresses, mapped, start] using hx
  rcases hx' with rfl | rfl <;> decide +kernel
theorem witness_ControlBitsCannotBeRead : ∃ t, exec .ei requested = .next t := ⟨_, rfl⟩
theorem witness_InteChangesOnlyByRule_enabled :
    ∃ t, step { atTop [] with eiPending := true } = .next t ∧ { atTop [] with eiPending := true }.inte = false ∧ t.inte = true :=
  ⟨_, rfl, rfl, rfl⟩
theorem witness_InteChangesOnlyByRule_disabled : ∃ t, step requested = .next t ∧ requested.inte = true ∧ t.inte = false :=
  ⟨_, rfl, rfl, rfl⟩
theorem witness_InteChangesOnlyByRule_di : ∃ t, step { atTop [(0xFFFF, 0xF3)] with inte := true } = .next t ∧
    { atTop [(0xFFFF, 0xF3)] with inte := true }.inte = true ∧ t.inte = false := ⟨_, rfl, rfl, rfl⟩
theorem witness_StepKeepsMapAndHistory : ∃ t, step requested = .next t := ⟨_, rfl⟩
theorem witness_StepKeepsInvariant : Inv requested ∧ ∃ t, step requested = .next t :=
  ⟨⟨by decide +kernel, fun _ => rfl⟩, _, rfl⟩

end Sys2Proof.Tests
end

/-! What decodes is well-formed, and what is well-formed completes: the decoder read backwards, and `exec` as a total
function on the instructions of the machine. -/

namespace Sys2Proof.Proofs

open Sys2Proof.Machine

/-- R71, R79, R80 read backwards: a decoded instruction is what the row of its first byte builds, and the bytes taken are as
many as that row's length. -/
theorem decode_eq_ok {bytes rest : List Byte} {i : Instr} (h : decode bytes = .ok (i, rest)) :
    ∃ b b2 b3 row, rowOf b = some row ∧ i = row.build b b2 b3 ∧
      (row.length = 1 ∧ bytes = b :: rest ∨ row.length = 2 ∧ bytes = b :: b2 :: rest ∨
        row.length = 3 ∧ bytes = b :: b2 :: b3 :: rest) := by
  unfold decode at h
  split at h
  case h_1 => cases h
  case h_2 b following =>
    split at h
    case h_1 => cases h
    case h_2 row hrow =>
      split at h
      case h_1 hlen =>
        cases h
        exact ⟨b, 0, 0, row, hrow, rfl, .inl ⟨hlen, rfl⟩⟩
      case h_2 b2 _ hlen =>
        cases h
        exact ⟨b, b2, 0, row, hrow, rfl, .inr (.inl ⟨hlen, rfl⟩)⟩
      case h_3 b2 b3 _ hlen =>
        cases h
        exact ⟨b, b2, b3, row, hrow, rfl, .inr (.inr ⟨hlen, rfl⟩)⟩
      case h_4 => cases h

/-- R81: the one byte whose two operand fields both say M is 0x76, which the row of MOV leaves out. -/
theorem mov_fields_wellFormed : ∀ b : Byte, b ≠ 0x76#8 → b &&& 0xC0#8 = 0x40#8 →
    (Instr.mov (operandOfCode (midField b)) (operandOfCode (lowField b))).wellFormed = true := by
  decide +kernel

/-- R80, R81: every row of the opcode table builds well-formed instructions from the first bytes it matches. MOV is the one
row whose first byte matters. -/
theorem build_wellFormed : ∀ row ∈ opcodeTable, ∀ b b2 b3 : Byte, row.matchesByte b = true →
    (row.build b b2 b3).wellFormed = true := by
  simp only [opcodeTable, List.forall_mem_append]
  refine ⟨⟨⟨⟨?dataTransfer, ?arithmetic⟩, ?logical⟩, ?branch⟩, ?stackIoControl⟩
  case dataTransfer =>
    refine List.forall_mem_cons.2 ⟨fun b _ _ hb => ?mov, by simp [Instr.wellFormed]⟩
    obtain ⟨hpattern, hexcept⟩ : b &&& 0xC0#8 = 0x40#8 ∧ b ≠ 0x76#8 := by simpa [OpcodeRow.matchesByte] using hb
    exact mov_fields_wellFormed b hexcept hpattern
  case arithmetic => simp [arithmeticRows, Instr.wellFormed]
  case logical => simp [logicalRows, Instr.wellFormed]
  case branch => simp [branchRows, Instr.wellFormed]
  case stackIoControl => simp [stackIoControlRows, Instr.wellFormed]

/-- R81: whatever decodes is an instruction of the machine. -/
theorem wellFormed_of_decode {bytes rest : List Byte} {i : Instr} (h : decode bytes = .ok (i, rest)) :
    i.wellFormed = true := by
  obtain ⟨b, b2, b3, row, hrow, rfl, -⟩ := decode_eq_ok h
  have hmatches : row.matchesByte b = true := List.find?_some (p := fun r : OpcodeRow => r.matchesByte b) hrow
  exact build_wellFormed row (List.mem_of_find?_eq_some hrow) b b2 b3 hmatches

theorem execMov_completes {dst src : Operand8} (h : (Instr.mov dst src).wellFormed = true) (s : State) :
    ∃ t, execMov dst src s = .next t := by
  rcases dst with r | _ <;> rcases src with q | _
  · exact ⟨_, rfl⟩
  · exact ⟨_, rfl⟩
  · exact ⟨_, rfl⟩
  · cases h

/-- R240: an instruction of the machine completes from every state; each meaning but that of MOV answers a next state on
sight. -/
theorem exec_completes {i : Instr} (h : i.wellFormed = true) (s : State) : ∃ t, exec i s = .next t := by
  cases i
  case mov dst src => exact execMov_completes h s
  all_goals exact ⟨_, rfl⟩

end Sys2Proof.Proofs

/-! The step that performs an instruction: what its fetch reads from backed memory, and the bookkeeping after it. -/

namespace Sys2Proof.Proofs

open Sys2Proof.Machine Sys2Proof.Safety Sys2Proof.Laws

/-- R58, R71: each byte that stands at pc is what a read of its address gives, and the read changes nothing. -/
theorem memRead_of_standsAtPc {s : State} {bytes : List Byte} (h : StandsAtPc s bytes) (k : Nat) (hk : k < bytes.length) :
    memRead (s.pc + BitVec.ofNat 16 k) s = (bytes[k], s) := by
  obtain ⟨hbacked, hpeek⟩ := h k hk
  rw [memRead_backed hbacked, hpeek]

/-- The first of the bytes that stand at pc is read at pc itself. -/
theorem memRead_pc_of_standsAtPc {s : State} {b : Byte} {operands : List Byte} (h : StandsAtPc s (b :: operands)) :
    memRead s.pc s = (b, s) := by
  have hread := memRead_of_standsAtPc h 0 (by simp)
  rwa [BitVec.add_zero] at hread

theorem readOperandBytes_two {s : State} {b b2 : Byte} (h : StandsAtPc s [b, b2]) :
    readOperandBytes 2 s = ([b2], s) := by
  have hread : memRead (s.pc + 1) s = (b2, s) := memRead_of_standsAtPc h 1 (by simp)
  simp only [readOperandBytes, hread]

theorem readOperandBytes_three {s : State} {b b2 b3 : Byte} (h : StandsAtPc s [b, b2, b3]) :
    readOperandBytes 3 s = ([b2, b3], s) := by
  obtain ⟨hbacked2, hpeek2⟩ : s.backed (s.pc + 1) = true ∧ s.peek (s.pc + 1) = b2 := h 1 (by simp)
  obtain ⟨hbacked3, hpeek3⟩ : s.backed (s.pc + 2) = true ∧ s.peek (s.pc + 2) = b3 := h 2 (by simp)
  simp only [readOperandBytes, readTwo_backed hbacked2 hbacked3, hpeek2, hpeek3]

/-- The parts of a fetch whose reads change nothing (R9). -/
theorem fetch_of_reads {s : State} {b : Byte} {row : OpcodeRow} {operands rest : List Byte} {i : Instr}
    (hfirst : memRead s.pc s = (b, s)) (hrow : rowOf b = some row)
    (hoperands : readOperandBytes row.length s = (operands, s)) (hdecode : decode (b :: operands) = .ok (i, rest)) :
    fetch s = .ok (i, s) := by
  simp [fetch, hfirst, instrLength, hrow, hoperands, hdecode]

/-- R9, R71: bytes in backed memory that decode to an instruction are fetched as it, and the fetch changes nothing. -/
theorem fetch_of_standsAtPc {s : State} {bytes : List Byte} {i : Instr} (hbytes : StandsAtPc s bytes)
    (hdecode : decode bytes = .ok (i, [])) : fetch s = .ok (i, s) := by
  obtain ⟨b, b2, b3, row, hrow, -, ⟨hlen, rfl⟩ | ⟨hlen, rfl⟩ | ⟨hlen, rfl⟩⟩ := decode_eq_ok hdecode
  · exact fetch_of_reads (memRead_pc_of_standsAtPc hbytes) hrow (by rw [hlen]; rfl) hdecode
  · exact fetch_of_reads (memRead_pc_of_standsAtPc hbytes) hrow (hlen ▸ readOperandBytes_two hbytes) hdecode
  · exact fetch_of_reads (memRead_pc_of_standsAtPc hbytes) hrow (hlen ▸ readOperandBytes_three hbytes) hdecode

/-- R244, R248: with nothing accepted at the boundary and the processor not stopped, a step is one instruction. -/
theorem step_of_proceeds {s : State} (h : Proceeds s) : step s = performInstruction s.pastBoundary := by
  obtain ⟨hreset, hrequest, hhalted⟩ := h
  have hproceed : proceed s.pastBoundary = performInstruction s.pastBoundary := by simp [proceed, hhalted]
  rcases hrequest with hnone | hinte
  · simp [step, cycle, hreset, hnone, hproceed]
  · cases hreq : s.boundaryNow.request <;> simp [step, cycle, hreset, hreq, hinte, hproceed]

theorem performInstruction_of_next {s t u : State} {i : Instr} (hfetch : fetch s = .ok (i, t))
    (hexec : exec i t = .next u) : performInstruction s = .next (endOfStep i u) := by
  simp only [performInstruction, hfetch, hexec]

/-- R243 with its condition as a proposition. -/
theorem endOfStep_eq_ite (i : Instr) (s : State) :
    endOfStep i s =
      if s.eiPending = true ∧ i ≠ .ei ∧ i ≠ .di then { s with inte := true, eiPending := false } else s := by
  simp [endOfStep, and_assoc]

/-- Settles O41: the bytes at pc are fetched as `i` with nothing changed, `exec` of `i` completes since what decodes is
well-formed, and the rest of the step is the bookkeeping. -/
theorem stepRunsDecodedInstruction : Obligations.StepRunsDecodedInstruction := by
  intro s bytes i hproceeds hbytes hspells
  have hdecode : decode bytes = .ok (i, []) := by simpa using hspells []
  have hpast : StandsAtPc s.pastBoundary bytes := hbytes
  obtain ⟨t, hexec⟩ := exec_completes (wellFormed_of_decode hdecode) s.pastBoundary
  refine ⟨t, hexec, ?_⟩
  rw [step_of_proceeds hproceeds, performInstruction_of_next (fetch_of_standsAtPc hpast hdecode) hexec, endOfStep_eq_ite]

end Sys2Proof.Proofs

/-! What each instruction writes beside memory: one relation, closed under the shared operations, that every meaning meets
with the tables of R36 and R37 and with R22's value of SP. -/

namespace Sys2Proof.Proofs

open Sys2Proof.Machine Sys2Proof.Safety Sys2Proof.Laws

/-- From `s` to `t` no register outside `R` and no flag outside `F` changes, and SP ends as `p`. -/
structure WritesOnly (R : List Reg) (F : List Flag) (p : Word) (s t : State) : Prop where
  reg : ∀ r, r ∉ R → t.reg r = s.reg r
  flag : ∀ f, f ∉ F → flagOf t.flags f = flagOf s.flags f
  sp : t.sp = p

theorem ioRead_frame (port : Byte) (s : State) : AccessFrame s (ioRead port s).2 := rfl

theorem ioWrite_frame (port v : Byte) (s : State) : AccessFrame s (ioWrite port v s) := rfl

namespace WritesOnly

variable {R : List Reg} {F : List Flag} {p : Word} {s t u : State}

theorem refl (s : State) : WritesOnly R F s.sp s s := ⟨fun _ _ => rfl, fun _ _ => rfl, rfl⟩

theorem access (h : WritesOnly R F p s t) (hf : AccessFrame t u) : WritesOnly R F p s u where
  reg r hr := by rw [hf.reg, h.reg r hr]
  flag f hf' := by rw [hf.flags, h.flag f hf']
  sp := by rw [hf.sp, h.sp]

theorem advance (h : WritesOnly R F p s t) (n : Word) : WritesOnly R F p s (t.advance n) := ⟨h.reg, h.flag, h.sp⟩

theorem setPc (h : WritesOnly R F p s t) (v : Word) : WritesOnly R F p s (t.setPc v) := ⟨h.reg, h.flag, h.sp⟩

theorem setSP (h : WritesOnly R F p s t) (v : Word) : WritesOnly R F v s (t.setSP v) := ⟨h.reg, h.flag, rfl⟩

theorem setReg (h : WritesOnly R F p s t) (r : Reg) (v : Byte)
    (hr : r ∈ R := by simp [regsWritten, pairRegs, stackPairRegs, operandRegs]) :
    WritesOnly R F p s (t.setReg r v) where
  reg q hq := by rw [setReg_reg_other t v (ne_of_mem_of_not_mem hr hq).symm, h.reg q hq]
  flag f hf := by rw [setReg_flags, h.flag f hf]
  sp := by rw [setReg_sp, h.sp]

/-- Flags written at once, where each flag outside `F` gets the value it had. -/
theorem setFlags {fs : Flags} (h : WritesOnly R F p s t) (hfs : ∀ f, f ∉ F → flagOf fs f = flagOf t.flags f) :
    WritesOnly R F p s (t.setFlags fs) :=
  ⟨h.reg, fun f hf => (hfs f hf).trans (h.flag f hf), h.sp⟩

theorem setAllFlags (h : WritesOnly R [.z, .s, .p, .cy, .ac] p s t) (fs : Flags) :
    WritesOnly R [.z, .s, .p, .cy, .ac] p s (t.setFlags fs) :=
  h.setFlags fun f hf => absurd (by cases f <;> simp) hf

theorem setCY (h : WritesOnly R F p s t) (v : Bool) (hcy : .cy ∈ F := by simp [flagsWritten]) :
    WritesOnly R F p s (t.setCY v) :=
  h.setFlags fun f hf => by
    cases f
    case cy => exact absurd hcy hf
    all_goals rfl

/-- A pair written is its two registers written (R21); SP written is none of the seven (R22). -/
theorem setPair {rp : RegPair} (h : WritesOnly (pairRegs rp) F p s t) (v : Word) :
    WritesOnly (pairRegs rp) F (if rp = .sp then v else p) s (t.setPair rp v) := by
  cases rp
  case b => exact (h.setReg .b (highByte v)).setReg .c (lowByte v)
  case d => exact (h.setReg .d (highByte v)).setReg .e (lowByte v)
  case h => exact (h.setReg .h (highByte v)).setReg .l (lowByte v)
  case sp => exact h.setSP v

/-- A pair replaced by a function of itself, as INX and DCX do. -/
theorem updatePair {rp : RegPair} (h : WritesOnly (pairRegs rp) F t.sp s t) (g : Word → Word) :
    WritesOnly (pairRegs rp) F (if rp = .sp then g t.sp else t.sp) s (t.setPair rp (g (t.pair rp))) := by
  have hw := h.setPair (g (t.pair rp))
  cases rp <;> exact hw

theorem dst8 {o : Operand8} (h : WritesOnly (operandRegs o) F p s t) (v : Byte) :
    WritesOnly (operandRegs o) F p s (Machine.dst8 o v t) := by
  rcases o with r | _
  · exact h.setReg r v
  · exact h.access (memWrite_frame _ v t)

/-- An addition, a subtraction or a decimal adjustment into A. -/
theorem accumulate (h : WritesOnly [.a] [.z, .s, .p, .cy, .ac] p s t) (k : AluResult) :
    WritesOnly [.a] [.z, .s, .p, .cy, .ac] p s (t.accumulate k) :=
  (h.setReg .a k.r).setAllFlags k.flags

theorem logicResult (h : WritesOnly [.a] [.z, .s, .p, .cy, .ac] p s t) (r : Byte) (ac : Bool) :
    WritesOnly [.a] [.z, .s, .p, .cy, .ac] p s (t.logicResult r ac) :=
  (h.setReg .a r).setAllFlags (logicFlags r ac)

theorem rotated (h : WritesOnly [.a] [.cy] p s t) (r : Byte) (cy : Bool) : WritesOnly [.a] [.cy] p s (t.rotated r cy) :=
  (h.setReg .a r).setCY cy

/-- INR and DCR keep CY (R128, R129). -/
theorem countedOperand {o : Operand8} (h : WritesOnly (operandRegs o) [.z, .s, .p, .ac] p s t) (k : AluResult) :
    WritesOnly (operandRegs o) [.z, .s, .p, .ac] p s (t.countedOperand o k) :=
  (h.dst8 k.r).setFlags fun f hf => by
    cases f
    case cy => rw [dst8_flags]; rfl
    all_goals exact absurd (by simp) hf

theorem pushBytes (h : WritesOnly R F t.sp s t) (hi lo : Byte) : WritesOnly R F (t.sp - 2) s (pushBytes hi lo t) :=
  (h.access (writeTwo_frame _ hi _ lo t)).setSP _

theorem callTo (h : WritesOnly R F t.sp s t) (target next : Word) : WritesOnly R F (t.sp - 2) s (callTo target next t) :=
  (h.pushBytes _ _).setPc target

theorem popBytes (h : WritesOnly R F t.sp s t) : WritesOnly R F (t.sp + 2) s (popBytes t).2 :=
  (h.access (readTwo_frame _ _ t).access).setSP _

theorem returnFrom (h : WritesOnly R F t.sp s t) : WritesOnly R F (t.sp + 2) s (returnFrom t) :=
  h.popBytes.setPc _

theorem setStackPair {rp : StackPair}
    (h : WritesOnly (stackPairRegs rp) (if rp = .psw then [.z, .s, .p, .cy, .ac] else []) p s t) (hi lo : Byte) :
    WritesOnly (stackPairRegs rp) (if rp = .psw then [.z, .s, .p, .cy, .ac] else []) p s (t.setStackPair rp hi lo) := by
  cases rp
  case b => exact (h.setReg .b hi).setReg .c lo
  case d => exact (h.setReg .d hi).setReg .e lo
  case h => exact (h.setReg .h hi).setReg .l lo
  case psw => exact (h.setReg .a hi).setAllFlags (pswUnpack lo)

end WritesOnly

/-- R77: the conditions of the model are those of the rule's table. -/
theorem condTrue_eq_condHolds (cond : Cond) (f : Flags) : condTrue cond f = condHolds cond f := by
  cases cond <;> simp [condTrue, condHolds]

section

variable {s t : State} {cond : Cond} {addr : Word}

/-- MOV as a copy from every state: a term with a next state from one state is not MOV M,M, the one that has none (R81). -/
theorem execMov_of_next {dst src : Operand8} (h : execMov dst src s = .next t) (u : State) :
    execMov dst src u = .next ((dst8 dst (src8 src u).1 (src8 src u).2).advance 1) := by
  rcases dst with r | _
  · rfl
  · rcases src with q | _
    · rfl
    · cases h

theorem jumpIf_writesOnly (h : jumpIf cond addr s = .next t) : WritesOnly [] [] s.sp s t := by
  cases h
  split
  · exact (WritesOnly.refl s).setPc addr
  · exact (WritesOnly.refl s).advance 3

theorem callIf_writesOnly (h : callIf cond addr s = .next t) :
    WritesOnly [] [] (if condTrue cond s.flags then s.sp - 2 else s.sp) s t := by
  cases h
  rw [condTrue_eq_condHolds]
  split
  · exact (WritesOnly.refl s).callTo addr _
  · exact (WritesOnly.refl s).advance 3

theorem returnIf_writesOnly (h : returnIf cond s = .next t) :
    WritesOnly [] [] (if condTrue cond s.flags then s.sp + 2 else s.sp) s t := by
  cases h
  rw [condTrue_eq_condHolds]
  split
  · exact (WritesOnly.refl s).returnFrom
  · exact (WritesOnly.refl s).advance 1

end

/-- R22, R36, R37: each instruction writes the registers and flags of its rows only, and SP as the rules give. Each case
follows the meaning of the instruction, operation by operation. -/
theorem exec_writesOnly {i : Instr} {s t : State} (h : exec i s = .next t) :
    WritesOnly (regsWritten i) (flagsWritten i) (spAfter i s) s t := by
  have hs {R : List Reg} {F : List Flag} : WritesOnly R F s.sp s s := .refl s
  have hsrc {R : List Reg} {F : List Flag} (o : Operand8) : WritesOnly R F s.sp s (src8 o s).2 :=
    hs.access (src8_frame o s).access
  cases i
  -- data transfer
  case mov dst src =>
    cases h.symm.trans (execMov_of_next h s)
    exact ((hsrc src).dst8 _).advance 1
  case mvi dst data => cases h; exact (hs.dst8 data).advance 2
  case lxi rp data16 => cases h; exact (hs.setPair data16).advance 3
  case lda addr => cases h; exact ((hs.access (memRead_frame addr s).access).setReg .a _).advance 3
  case ldax rp => cases h; exact ((hs.access (memRead_frame _ s).access).setReg .a _).advance 1
  case sta addr => cases h; exact (hs.access (memWrite_frame addr _ s)).advance 3
  case stax rp => cases h; exact (hs.access (memWrite_frame _ _ s)).advance 1
  case shld addr => cases h; exact (hs.access (writeTwo_frame addr _ _ _ s)).advance 3
  case lhld addr =>
    cases h
    exact (((hs.access (readTwo_frame addr _ s).access).setReg .l _).setReg .h _).advance 3
  case xchg =>
    cases h
    exact ((((hs.setReg .h s.d).setReg .l s.e).setReg .d s.h).setReg .e s.l).advance 1
  -- arithmetic and logical
  case add src | adc src | sub src | sbb src => cases h; exact ((hsrc src).accumulate _).advance 1
  case adi | aci | sui | sbi => cases h; exact (hs.accumulate _).advance 2
  case daa => cases h; exact (hs.accumulate _).advance 1
  case inr dst | dcr dst => cases h; exact ((hsrc dst).countedOperand _).advance 1
  case inx rp => cases h; exact (hs.updatePair (· + 1)).advance 1
  case dcx rp => cases h; exact (hs.updatePair (· - 1)).advance 1
  case dad rp => cases h; exact ((hs.setPair (rp := .h) _).setCY _).advance 1
  case ana src => cases h; exact (((hsrc src).access (drawn_frame _).access).logicResult _ _).advance 1
  case xra src | ora src => cases h; exact ((hsrc src).logicResult _ _).advance 1
  case ani | xri | ori => cases h; exact (hs.logicResult _ _).advance 2
  case cmp src => cases h; exact ((hsrc src).setAllFlags _).advance 1
  case cpi => cases h; exact (hs.setAllFlags _).advance 2
  case rlc | rrc | ral | rar => cases h; exact (hs.rotated _ _).advance 1
  case cma => cases h; exact (hs.setReg .a _).advance 1
  case cmc | stc => cases h; exact (hs.setCY _).advance 1
  -- branch
  case jmp addr => cases h; exact hs.setPc addr
  case pchl => cases h; exact hs.setPc _
  case jnz | jz | jnc | jc | jpo | jpe | jp | jm => exact jumpIf_writesOnly h
  case call addr => cases h; exact hs.callTo addr _
  case rst => cases h; exact hs.callTo _ _
  case cnz | cz | cnc | cc | cpo | cpe | cp | cm => exact callIf_writesOnly h
  case ret => cases h; exact hs.returnFrom
  case rnz | rz | rnc | rc | rpo | rpe | rp | rm => exact returnIf_writesOnly h
  -- stack, input and output, machine control
  case push rp => cases h; exact (hs.pushBytes _ _).advance 1
  case pop rp => cases h; exact (hs.popBytes.setStackPair _ _).advance 1
  case xthl =>
    cases h
    exact (((hs.access (exchangeTwo_frame _ _ _ _ s)).setReg .l _).setReg .h _).advance 1
  case sphl => cases h; exact (hs.setSP s.hl).advance 1
  case inPort port => cases h; exact ((hs.access (ioRead_frame port s)).setReg .a _).advance 2
  case outPort port => cases h; exact (hs.access (ioWrite_frame port s.a s)).advance 2
  case ei | di | hlt => cases h; exact ⟨fun r _ => by cases r <;> rfl, fun _ _ => rfl, rfl⟩
  case nop => cases h; exact hs.advance 1

/-- Settles O52: the register and SP parts of what every instruction writes. -/
theorem registersChangeOnlyAsTabled : Obligations.RegistersChangeOnlyAsTabled := by
  intro i s t h
  have hw := exec_writesOnly h
  exact ⟨hw.reg, hw.sp⟩

/-- Settles O51: the flag part of what every instruction writes. -/
theorem flagsChangeOnlyAsTabled : Obligations.FlagsChangeOnlyAsTabled :=
  fun _ _ _ f h hf => (exec_writesOnly h).flag f hf

end Sys2Proof.Proofs

/-! The control fields (`inte`, `ei_pending`, `halted` and the coming boundaries; R29, R30, R34) stand apart from everything
an instruction computes with: each operation commutes with putting other values into them. From this one fact follow both
that no instruction reads them and that none but EI, DI and HLT writes them. -/

namespace Sys2Proof.Proofs

open Sys2Proof.Machine Sys2Proof.Laws

/-- The three control bits and the boundaries to come, as one value. -/
structure Control where
  inte : Bool
  eiPending : Bool
  halted : Bool
  boundaries : List Boundary

/-- `s` with other control fields. -/
def withControl (k : Control) (s : State) : State :=
  { s with inte := k.inte, eiPending := k.eiPending, halted := k.halted, boundaries := k.boundaries }

/-- The control fields of `s`. -/
def controlOf (s : State) : Control := ⟨s.inte, s.eiPending, s.halted, s.boundaries⟩

theorem withControl_controlOf (s : State) : withControl (controlOf s) s = s := rfl

theorem controlOf_withControl (k : Control) (s : State) : controlOf (withControl k s) = k := rfl

/-! ### The operations commute with other control fields -/

section

variable (k : Control) (s : State)

theorem reg_withControl (r : Reg) : (withControl k s).reg r = s.reg r := by cases r <;> rfl

theorem setReg_withControl (r : Reg) (v : Byte) : (withControl k s).setReg r v = withControl k (s.setReg r v) := by
  cases r <;> rfl

theorem pair_withControl (rp : RegPair) : (withControl k s).pair rp = s.pair rp := by cases rp <;> rfl

theorem setPair_withControl (rp : RegPair) (v : Word) : (withControl k s).setPair rp v = withControl k (s.setPair rp v) := by
  cases rp <;> rfl

theorem indirect_withControl (rp : IndirectPair) : (withControl k s).indirect rp = s.indirect rp := by cases rp <;> rfl

theorem stackHigh_withControl (rp : StackPair) : (withControl k s).stackHigh rp = s.stackHigh rp := by cases rp <;> rfl

theorem stackLow_withControl (rp : StackPair) : (withControl k s).stackLow rp = s.stackLow rp := by cases rp <;> rfl

theorem setStackPair_withControl (rp : StackPair) (hi lo : Byte) :
    (withControl k s).setStackPair rp hi lo = withControl k (s.setStackPair rp hi lo) := by
  cases rp <;> rfl

theorem kindAt_withControl (x : Word) : (withControl k s).kindAt x = s.kindAt x := rfl

theorem bothDevice_withControl (x y : Word) : (withControl k s).bothDevice x y = s.bothDevice x y := rfl

theorem draws_withControl : (withControl k s).draws = s.draws := rfl

theorem drawn_withControl : (withControl k s).drawn = withControl k s.drawn := rfl

theorem memRead_withControl (x : Word) :
    memRead x (withControl k s) = ((memRead x s).1, withControl k (memRead x s).2) := by
  unfold memRead
  rw [kindAt_withControl]
  cases s.kindAt x <;> rfl

theorem memWrite_withControl (x : Word) (v : Byte) :
    memWrite x v (withControl k s) = withControl k (memWrite x v s) := by
  unfold memWrite
  rw [kindAt_withControl]
  cases s.kindAt x <;> rfl

theorem readTwo_withControl (x y : Word) :
    readTwo x y (withControl k s) = ((readTwo x y s).1, withControl k (readTwo x y s).2) := by
  by_cases hboth : s.bothDevice x y = true
  · by_cases hrev : Config.reverseOrder s.draws = true <;>
      simp [readTwo, bothDevice_withControl, draws_withControl, drawn_withControl, hboth, hrev, memRead_withControl]
  · simp [readTwo, bothDevice_withControl, hboth, memRead_withControl]

theorem writeTwo_withControl (x : Word) (vx : Byte) (y : Word) (vy : Byte) :
    writeTwo x vx y vy (withControl k s) = withControl k (writeTwo x vx y vy s) := by
  by_cases hboth : s.bothDevice x y = true
  · by_cases hrev : Config.reverseOrder s.draws = true <;>
      simp [writeTwo, bothDevice_withControl, draws_withControl, drawn_withControl, hboth, hrev, memWrite_withControl]
  · simp [writeTwo, bothDevice_withControl, hboth, memWrite_withControl]

theorem exchangeTwo_withControl (x : Word) (vx : Byte) (y : Word) (vy : Byte) :
    exchangeTwo x vx y vy (withControl k s) =
      ((exchangeTwo x vx y vy s).1, withControl k (exchangeTwo x vx y vy s).2) := by
  simp only [exchangeTwo, bothDevice_withControl, draws_withControl, drawn_withControl, memRead_withControl,
    memWrite_withControl, readTwo_withControl, writeTwo_withControl]
  split
  · split <;> rfl
  · rfl

theorem src8_withControl (o : Operand8) : src8 o (withControl k s) = ((src8 o s).1, withControl k (src8 o s).2) := by
  rcases o with r | _
  · rw [src8_reg, src8_reg, reg_withControl]
  · exact memRead_withControl k s s.hl

theorem dst8_withControl (o : Operand8) (v : Byte) : dst8 o v (withControl k s) = withControl k (dst8 o v s) := by
  rcases o with r | _
  · exact setReg_withControl k s r v
  · exact memWrite_withControl k s s.hl v

theorem countedOperand_withControl (o : Operand8) (n : AluResult) :
    (withControl k s).countedOperand o n = withControl k (s.countedOperand o n) := by
  unfold State.countedOperand
  rw [dst8_withControl]
  rfl

theorem pushBytes_withControl (hi lo : Byte) :
    pushBytes hi lo (withControl k s) = withControl k (pushBytes hi lo s) := by
  unfold pushBytes
  rw [writeTwo_withControl]
  rfl

theorem popBytes_withControl : popBytes (withControl k s) = ((popBytes s).1, withControl k (popBytes s).2) := by
  unfold popBytes
  rw [readTwo_withControl]
  rfl

theorem callTo_withControl (target next : Word) :
    callTo target next (withControl k s) = withControl k (callTo target next s) := by
  unfold callTo push16
  rw [pushBytes_withControl]
  rfl

theorem returnFrom_withControl : returnFrom (withControl k s) = withControl k (returnFrom s) := by
  unfold returnFrom pop16
  rw [popBytes_withControl]
  rfl

end

/-! ### The meanings commute with other control fields -/

section

variable {s t : State} {cond : Cond} {addr : Word}

theorem jumpIf_withControl (k : Control) (h : jumpIf cond addr s = .next t) :
    jumpIf cond addr (withControl k s) = .next (withControl k t) := by
  cases h
  rw [apply_ite (withControl k)]
  rfl

theorem callIf_withControl (k : Control) (h : callIf cond addr s = .next t) :
    callIf cond addr (withControl k s) = .next (withControl k t) := by
  cases h
  unfold callIf
  rw [callTo_withControl, apply_ite (withControl k)]
  rfl

theorem returnIf_withControl (k : Control) (h : returnIf cond s = .next t) :
    returnIf cond (withControl k s) = .next (withControl k t) := by
  cases h
  unfold returnIf
  rw [returnFrom_withControl, apply_ite (withControl k)]
  rfl

/-- The three instructions that write control bits (R228 to R230). -/
def writesControl : Instr → Bool
  | .ei | .di | .hlt => true
  | _ => false

/-- R29, R30: every instruction but EI, DI and HLT does the same whatever the control fields hold, and leaves them. Each
group of cases names the operations through which its meaning passes them on. -/
theorem exec_withControl {i : Instr} (k : Control) (hi : writesControl i = false) (h : exec i s = .next t) :
    exec i (withControl k s) = .next (withControl k t) := by
  cases i
  case ei | di | hlt => cases hi
  case mov dst src =>
    cases h.symm.trans (execMov_of_next h s)
    simp only [exec, execMov_of_next h, src8_withControl, dst8_withControl]
    rfl
  case mvi => cases h; simp only [exec, execMvi, dst8_withControl]; rfl
  case add | adc | sub | sbb | ana | xra | ora | cmp =>
    cases h
    simp only [exec, execAdd, execAdc, execSub, execSbb, execAna, execXra, execOra, execCmp, src8_withControl]
    rfl
  case inr | dcr => cases h; simp only [exec, execInr, execDcr, src8_withControl, countedOperand_withControl]; rfl
  case lxi | inx | dcx =>
    cases h
    simp only [exec, execLxi, execInx, execDcx, pair_withControl, setPair_withControl]
    rfl
  case dad => cases h; simp only [exec, execDad, pair_withControl]; rfl
  case lda | ldax => cases h; simp only [exec, execLda, execLdax, indirect_withControl, memRead_withControl]; rfl
  case sta | stax => cases h; simp only [exec, execSta, execStax, indirect_withControl, memWrite_withControl]; rfl
  case lhld => cases h; simp only [exec, execLhld, readTwo_withControl]; rfl
  case shld => cases h; simp only [exec, execShld, writeTwo_withControl]; rfl
  case jnz | jz | jnc | jc | jpo | jpe | jp | jm => exact jumpIf_withControl k h
  case cnz | cz | cnc | cc | cpo | cpe | cp | cm => exact callIf_withControl k h
  case rnz | rz | rnc | rc | rpo | rpe | rp | rm => exact returnIf_withControl k h
  case call | rst => cases h; simp only [exec, execCall, execRst, restart, callTo_withControl]; rfl
  case ret => cases h; simp only [exec, execRet, returnFrom_withControl]
  case push =>
    cases h
    simp only [exec, execPush, stackHigh_withControl, stackLow_withControl, pushBytes_withControl]
    rfl
  case pop => cases h; simp only [exec, execPop, popBytes_withControl, setStackPair_withControl]; rfl
  case xthl => cases h; simp only [exec, execXthl, exchangeTwo_withControl]; rfl
  -- What is left passes the control fields on unread: registers, flags, pc and ports only.
  all_goals cases h; rfl

/-- An instruction other than EI, DI and HLT leaves the control fields: it commutes with putting in the values they have. -/
theorem exec_controlOf {i : Instr} (hi : writesControl i = false) (h : exec i s = .next t) :
    controlOf t = controlOf s := by
  have hsame := exec_withControl (controlOf s) hi h
  rw [withControl_controlOf] at hsame
  have ht : t = withControl (controlOf s) t := Host.Outcome.next.inj (h.symm.trans hsame)
  rw [ht, controlOf_withControl]

end

/-- Settles O56: EI, DI and HLT write the same constants whatever was there; every other instruction commutes with other
control fields. -/
theorem controlBitsCannotBeRead : Obligations.ControlBitsCannotBeRead := by
  intro i s t x y z rest h
  cases hi : writesControl i
  case false => exact ⟨_, exec_withControl ⟨x, y, z, rest⟩ hi h, rfl⟩
  case true =>
    cases i
    case ei | di | hlt => cases h; exact ⟨_, rfl, rfl⟩
    all_goals cases hi

/-- Settles O54: EI, DI and HLT by their meanings; every other instruction leaves the control fields. -/
theorem controlBitsChangeOnlyByTheirInstructions : Obligations.ControlBitsChangeOnlyByTheirInstructions := by
  intro i s t h
  cases hi : writesControl i
  case false =>
    obtain ⟨hei, hdi, hhlt⟩ : i ≠ .ei ∧ i ≠ .di ∧ i ≠ .hlt := by
      refine ⟨?_, ?_, ?_⟩ <;> rintro rfl <;> cases hi
    obtain ⟨hinte, hpending, hhalted, -⟩ := Control.mk.inj (exec_controlOf hi h)
    simp [hei, hdi, hhlt, hinte, hpending, hhalted]
  case true =>
    cases i
    case ei | di | hlt => cases h; exact ⟨rfl, rfl, rfl⟩
    all_goals cases hi

end Sys2Proof.Proofs

/-! Single facts about the state: the registers and their pairs, a push undone by a pop, and the reset event. -/

namespace Sys2Proof.Proofs

open Sys2Proof.Machine Sys2Proof.Laws

/-! ### Registers and pairs -/

/-- R20: one register written. -/
theorem reg_setReg (s : State) (r q : Reg) (v : Byte) : (s.setReg r v).reg q = if q = r then v else s.reg q := by
  split
  case isTrue heq => rw [heq, setReg_reg_same]
  case isFalse hne => exact setReg_reg_other s v hne

/-- R21, R22: a pair reads as what was written to it. -/
theorem pair_setPair (s : State) (rp : RegPair) (w : Word) : (s.setPair rp w).pair rp = w := by
  cases rp
  case b | d | h => exact join_high_low w
  case sp => rfl

/-- Settles O6: a pair is the join of its two registers, high-order register first. -/
theorem registersAndPairsHoldWhatIsWritten : Obligations.RegistersAndPairsHoldWhatIsWritten := by
  intro s v w
  exact ⟨fun r q => reg_setReg s r q v, join_toNat s.b s.c, join_toNat s.d s.e, join_toNat s.h s.l, rfl, rfl, rfl, rfl,
    fun rp => pair_setPair s rp w⟩

/-! ### PUSH and then POP -/

/-- The state PUSH leaves (R220, R221). -/
def afterPush (rp : StackPair) (s : State) : State := (pushBytes (s.stackHigh rp) (s.stackLow rp) s).advance 1

theorem exec_push (rp : StackPair) (s : State) : exec (.push rp) s = .next (afterPush rp s) := rfl

/-- R220 to R223, R28: whatever was put in between in the registers or flags of that name, writing the two bytes PUSH stores
back to them restores all that PUSH does not change. -/
theorem setStackPair_restores (s : State) (rp : StackPair) (hi lo : Byte) (sp pc : Word) (m : Memory) :
    State.setStackPair { ({ s with sp := sp, pc := pc, mem := m } : State).setStackPair rp hi lo with sp := s.sp } rp
      (s.stackHigh rp) (s.stackLow rp) = { s with pc := pc, mem := m } := by
  cases rp
  case b | d | h => rfl
  case psw => simp [State.setStackPair, State.stackHigh, State.stackLow]

theorem backed_of_ram {s : State} {x : Word} (h : s.kindAt x = .ram) : s.backed x = true := by
  simp [State.backed, h]

/-- R56 on RAM: wherever the machine stands, with the memory a push left, its map and its SP, a pop gives the two bytes
pushed and the SP from before the push. -/
theorem popBytes_of_pushed {s t : State} {hi lo : Byte} (hm : Memory.wf s.mem = true)
    (h1 : s.kindAt (s.sp - 1) = .ram) (h2 : s.kindAt (s.sp - 2) = .ram)
    (hmem : t.mem = (pushBytes hi lo s).mem) (hmap : t.memmap = s.memmap) (hsp : t.sp = s.sp - 2) :
    popBytes t = ((lo, hi), { t with sp := s.sp }) := by
  have hnext : t.sp + 1 = s.sp - 1 := by rw [hsp]; bv_omega
  have hback : t.sp + 2 = s.sp := by rw [hsp]; bv_omega
  have hne : (s.sp - 1).toNat ≠ (s.sp - 2).toNat := by bv_omega
  rw [pushBytes_ram hi lo h1 h2] at hmem
  have hlo : t.peek t.sp = lo := by
    rw [State.peek, hmem, hsp]
    exact read_write_same _ lo (write_wf _ hi hm)
  have hhi : t.peek (t.sp + 1) = hi := by
    rw [State.peek, hmem, hnext, read_write_other _ lo hne]
    exact read_write_same _ hi hm
  have hkind (x : Word) : t.kindAt x = s.kindAt x := by rw [kindAt_eq, kindAt_eq, hmap]
  have hlow : t.backed t.sp = true := backed_of_ram (by rw [hkind, hsp, h2])
  have hhigh : t.backed (t.sp + 1) = true := backed_of_ram (by rw [hkind, hnext, h1])
  rw [popBytes_backed hlow hhigh, hlo, hhi, hback]

/-- On RAM the POP after a PUSH of the same name reads the two bytes pushed, and so writes back what was there. -/
theorem exec_pop_afterPush {s : State} (rp : StackPair) (hi lo : Byte) (hm : Memory.wf s.mem = true)
    (h1 : s.kindAt (s.sp - 1) = .ram) (h2 : s.kindAt (s.sp - 2) = .ram) :
    exec (.pop rp) ((afterPush rp s).setStackPair rp hi lo) =
      .next { s with pc := s.pc + 2, mem := (afterPush rp s).mem } := by
  have hpop : popBytes ((afterPush rp s).setStackPair rp hi lo) =
      ((s.stackLow rp, s.stackHigh rp), { (afterPush rp s).setStackPair rp hi lo with sp := s.sp }) :=
    popBytes_of_pushed hm h1 h2 (by simp [afterPush]) (by simp [afterPush, pushBytes_eq]) (by simp [afterPush, pushBytes_eq])
  have hpush : afterPush rp s = { s with sp := s.sp - 2, pc := s.pc + 1, mem := (afterPush rp s).mem } := by
    rw [afterPush, pushBytes_ram _ _ h1 h2]
    rfl
  have hpc : s.pc + 1 + 1 = s.pc + 2 := by bv_omega
  have hback := setStackPair_restores s rp hi lo (s.sp - 2) (s.pc + 1) (afterPush rp s).mem
  rw [← hpush] at hback
  simp only [exec, execPop, hpop, hback, State.advance, hpc]

/-- Settles O37: PUSH writes the two bytes below SP, and POP of the same name reads them back. -/
theorem pushThenPopRestores : Obligations.PushThenPopRestores := fun s rp hi lo hm h1 h2 =>
  ⟨afterPush rp s, _, exec_push rp s, fun _ hx1 hx2 => writeTwo_peek_other _ _ s hx1 hx2,
    exec_pop_afterPush rp hi lo hm h1 h2, rfl⟩

/-! ### Reset -/

/-- R247 (d), R270: reset at the boundary, whatever else stands there. -/
theorem step_of_reset {s : State} (h : s.boundaryNow.reset = true) : step s = .next s.pastBoundary.resetEvent := by
  simp [step, cycle, h]

/-- Settles O46: the step with reset at the boundary is the reset event past it. -/
theorem resetWritesControlStateOnly : Obligations.ResetWritesControlStateOnly := by
  refine ⟨fun s request rest hs => ?_, rfl, rfl, rfl, rfl⟩
  have hreset : s.boundaryNow.reset = true := by simp [State.boundaryNow, hs]
  rw [step_of_reset hreset, State.resetEvent, State.pastBoundary, hs]
  rfl

end Sys2Proof.Proofs

/-! Memory and the ports (20_memory.md): a read after a write, the memory map, the order of two accesses, two bytes stored
and read back; each from the rules of `Laws/Ops` for its kind of address. -/

namespace Sys2Proof.Proofs

open Sys2Proof.Machine Sys2Proof.Laws

/-! ### A read after a write (R51) -/

/-- An access changes no address's kind, so none becomes or stops being backed by memory. -/
theorem backed_of_accessFrame {s t : State} (h : AccessFrame s t) (x : Word) : t.backed x = s.backed x := by
  rw [State.backed, State.backed, h.kindAt]

/-- R51: on RAM a read returns the byte just written and changes nothing. -/
theorem memRead_memWrite_same {s : State} {x : Word} (v : Byte) (hm : Memory.wf s.mem = true) (hx : s.kindAt x = .ram) :
    memRead x (memWrite x v s) = (v, memWrite x v s) := by
  rw [memRead_backed (by rw [backed_of_accessFrame (memWrite_frame x v s), backed_of_ram hx]),
    memWrite_peek_same v hm hx]

/-- R51: every other address backed by memory reads as before the write. -/
theorem memRead_memWrite_other {s : State} {x y : Word} (v : Byte) (hne : y ≠ x) (hy : s.backed y = true) :
    memRead y (memWrite x v s) = (s.peek y, memWrite x v s) := by
  rw [memRead_backed (by rw [backed_of_accessFrame (memWrite_frame x v s), hy]), memWrite_peek_other v s hne]

/-- Settles O8: the read after the write at the same and at another address, and the canonical form kept by a write. -/
theorem readReturnsMostRecentWrite : Obligations.ReadReturnsMostRecentWrite := fun s x v hm hx =>
  ⟨memRead_memWrite_same v hm hx, fun _ hne => memWrite_peek_other v s hne,
    fun _ hne hy => memRead_memWrite_other v hne hy, memWrite_wf x v hm⟩

/-! ### The memory map (R58) -/

theorem backed_of_rom {s : State} {x : Word} (h : s.kindAt x = .rom) : s.backed x = true := by
  simp [State.backed, h]

/-- R65: the answer to a read is the one lined up, where there is one. -/
theorem nextAnswer_of_cons {s : State} {v : Byte} {rest : List Byte} (e : Endpoint) (h : s.answers = v :: rest) :
    s.nextAnswer e = v := by
  rw [State.nextAnswer, h]

theorem region_holds_iff (r : Region) (x : Word) : Region.holds r x = true ↔ r.first ≤ x.toNat ∧ x.toNat ≤ r.last := by
  simp [Region.holds]

theorem not_region_holds_iff (r : Region) (x : Word) : ¬ Region.holds r x = true ↔ x.toNat < r.first ∨ r.last < x.toNat := by
  rw [region_holds_iff]
  omega

/-- The first region that holds an address says its kind (log entry 6). -/
theorem kindIn_append_cons {before after : List Region} {r : Region} {x : Word}
    (hbefore : ∀ q ∈ before, ¬ Region.holds q x = true) (hr : Region.holds r x = true) :
    kindIn (before ++ r :: after) x = r.kind := by
  rw [kindIn, List.find?_append, List.find?_eq_none.2 hbefore, List.find?_cons_of_pos (p := fun q => Region.holds q x) hr]
  rfl

/-- An address that no region holds is RAM (log entry 6). -/
theorem kindIn_of_none_holds {map : List Region} {x : Word} (h : ∀ q ∈ map, ¬ Region.holds q x = true) :
    kindIn map x = .ram := by
  rw [kindIn, List.find?_eq_none.2 h]

/-- Settles O9: the accesses at ROM, at nothing and at a device by their rules, and the kind of an address by what the
search for its region finds. -/
theorem memoryMapGovernsAccess : Obligations.MemoryMapGovernsAccess := by
  intro s x v
  refine ⟨fun hrom => ?rom, fun hnothing => ?nothing, fun hdevice => ?device,
    fun before after r hmap hbefore hfirst hlast => ?firstRegion, fun hnone => ?noRegion⟩
  case rom => exact ⟨memRead_backed (backed_of_rom hrom), memWrite_lost v (.inl hrom)⟩
  case nothing =>
    rw [memRead_nothing hnothing]
    exact ⟨memWrite_lost v (.inr hnothing), rfl⟩
  case device =>
    rw [memRead_device hdevice]
    exact ⟨memWrite_device v hdevice, rfl, fun w ws hanswers => nextAnswer_of_cons _ hanswers⟩
  case firstRegion =>
    rw [kindAt_eq, hmap]
    exact kindIn_append_cons (fun q hq => (not_region_holds_iff q x).2 (hbefore q hq))
      ((region_holds_iff r x).2 ⟨hfirst, hlast⟩)
  case noRegion => exact kindIn_of_none_holds fun q hq => (not_region_holds_iff q x).2 (hnone q hq)

/-! ### The order of two accesses (R55, R66) -/

theorem bothDevice_eq_false_iff (s : State) (x y : Word) :
    s.bothDevice x y = false ↔ ¬ (s.kindAt x = .device ∧ s.kindAt y = .device) := by
  simp [State.bothDevice]

theorem bothDevice_of_accessFrame {s t : State} (h : AccessFrame s t) (x y : Word) :
    t.bothDevice x y = s.bothDevice x y := by
  rw [State.bothDevice, State.bothDevice, h.kindAt, h.kindAt]

/-- Unless both addresses have a device, two reads are one after the other, `x` first (R55, R66). -/
theorem readTwo_plain {s : State} {x y : Word} (h : s.bothDevice x y = false) :
    readTwo x y s = (((memRead x s).1, (memRead y (memRead x s).2).1), (memRead y (memRead x s).2).2) := by
  simp [readTwo, h]

/-- Unless both addresses have a device, two writes are one after the other, `x` first (R55, R66). -/
theorem writeTwo_plain {s : State} {x y : Word} (vx vy : Byte) (h : s.bothDevice x y = false) :
    writeTwo x vx y vy s = memWrite y vy (memWrite x vx s) := by
  simp [writeTwo, h]

/-- Settles O10: two reads and two writes away from two devices, and the exchange as the one and then the other. -/
theorem accessOrderFollowsTable : Obligations.AccessOrderFollowsTable := by
  intro s x y vx vy hdevices
  have hplain : s.bothDevice x y = false := (bothDevice_eq_false_iff s x y).2 hdevices
  have hafter : (readTwo x y s).2.bothDevice x y = false := by
    rw [bothDevice_of_accessFrame (readTwo_frame x y s).access, hplain]
  refine ⟨readTwo_plain hplain, writeTwo_plain vx vy hplain, ?_⟩
  rw [exchangeTwo_plain vx vy hplain, writeTwo_plain vx vy hafter, readTwo_plain hplain]

/-! ### Two bytes stored and read back (R52, R54, R56) -/

/-- On RAM the second of two bytes written stands at its address. -/
theorem writeTwo_peek_second {s : State} {x y : Word} (vx vy : Byte) (hm : Memory.wf s.mem = true)
    (hx : s.kindAt x = .ram) (hy : s.kindAt y = .ram) : (writeTwo x vx y vy s).peek y = vy := by
  rw [writeTwo_ram vx vy hx hy]
  exact read_write_same _ vy (write_wf x vx hm)

/-- On RAM the first of two bytes written stands at its address, if the second goes elsewhere. -/
theorem writeTwo_peek_first {s : State} {x y : Word} (vx vy : Byte) (hne : x ≠ y) (hm : Memory.wf s.mem = true)
    (hx : s.kindAt x = .ram) (hy : s.kindAt y = .ram) : (writeTwo x vx y vy s).peek x = vx := by
  rw [writeTwo_ram vx vy hx hy]
  exact (read_write_other _ vy fun h => hne (BitVec.eq_of_toNat_eq h)).trans (read_write_same _ vx hm)

/-- On RAM two bytes written are read back wherever the machine stands, with the memory the writes left and its map. -/
theorem readTwo_of_written {s t : State} {x y : Word} {vx vy : Byte} (hne : x ≠ y) (hm : Memory.wf s.mem = true)
    (hx : s.kindAt x = .ram) (hy : s.kindAt y = .ram) (hmem : t.mem = (writeTwo x vx y vy s).mem)
    (hmap : t.memmap = s.memmap) : readTwo x y t = ((vx, vy), t) := by
  have hbacked {z : Word} (hz : s.kindAt z = .ram) : t.backed z = true :=
    backed_of_ram (by rw [kindAt_eq, hmap, ← kindAt_eq, hz])
  have hpeek (z : Word) : t.peek z = (writeTwo x vx y vy s).peek z := by rw [State.peek, State.peek, hmem]
  rw [readTwo_backed (hbacked hx) (hbacked hy), hpeek, hpeek, writeTwo_peek_first vx vy hne hm hx hy,
    writeTwo_peek_second vx vy hm hx hy]

theorem exec_shld (addr : Word) (s : State) :
    exec (.shld addr) s = .next ((writeTwo addr s.l (addr + 1) s.h s).advance 3) := rfl

/-- R107: LHLD by the bytes it reads. -/
theorem exec_lhld_of_readTwo {addr : Word} {s t : State} {lo hi : Byte} (h : readTwo addr (addr + 1) s = ((lo, hi), t)) :
    exec (.lhld addr) s = .next (((t.setReg .l lo).setReg .h hi).advance 3) := by
  simp only [exec, execLhld, h]

/-- Settles O15: SHLD's two writes put L and H where LHLD's two reads find them. -/
theorem shldThenLhldRestoresHL : Obligations.ShldThenLhldRestoresHL := by
  intro s addr h' l' hm hx hy
  have hne : addr ≠ addr + 1 := by bv_omega
  have hpeek (x : Word) : ((writeTwo addr s.l (addr + 1) s.h s).advance 3).peek x =
      (writeTwo addr s.l (addr + 1) s.h s).peek x := rfl
  have hread : readTwo addr (addr + 1) { (writeTwo addr s.l (addr + 1) s.h s).advance 3 with h := h', l := l' } =
      ((s.l, s.h), { (writeTwo addr s.l (addr + 1) s.h s).advance 3 with h := h', l := l' }) :=
    readTwo_of_written hne hm hx hy rfl (by simp)
  refine ⟨_, _, exec_shld addr s, ?low, ?high, fun z hz hz' => ?others, exec_lhld_of_readTwo hread, ?restored⟩
  case low => rw [hpeek, writeTwo_peek_first _ _ hne hm hx hy]
  case high => rw [hpeek, writeTwo_peek_second _ _ hm hx hy]
  case others => rw [hpeek, writeTwo_peek_other _ _ s hz hz']
  case restored => simp

/-- R52, R56: the two bytes of a word, the high-order one taken 256 times. -/
theorem highByte_lowByte_toNat (w : Word) : 256 * (highByte w).toNat + (lowByte w).toNat = w.toNat := by
  rw [← join_toNat, join_high_low]

/-- R190, R200 on RAM: the RET from where a call arrives pops the address the call pushed, and undoes all else but the two
bytes stored. -/
theorem returnFrom_callTo {s : State} (target next : Word) (hm : Memory.wf s.mem = true)
    (h1 : s.kindAt (s.sp - 1) = .ram) (h2 : s.kindAt (s.sp - 2) = .ram) :
    returnFrom (callTo target next s) = { s with pc := next, mem := (callTo target next s).mem } := by
  have hpop : popBytes (callTo target next s) =
      ((lowByte next, highByte next), { callTo target next s with sp := s.sp }) :=
    popBytes_of_pushed hm h1 h2 rfl (by simp [callTo_eq]) rfl
  rw [returnFrom, pop16, hpop, join_high_low, callTo_eq, writeTwo_ram _ _ h1 h2]
  rfl

/-- Settles O34: CALL's push stands in RAM below SP, and RET takes it back. -/
theorem callThenReturnComesBack : Obligations.CallThenReturnComesBack := by
  intro s target hm h1 h2
  have hne : s.sp - 1 ≠ s.sp - 2 := by bv_omega
  have hpeek (x : Word) : (callTo target (s.pc + 3) s).peek x =
      (writeTwo (s.sp - 1) (highByte (s.pc + 3)) (s.sp - 2) (lowByte (s.pc + 3)) s).peek x := by rw [callTo_eq]; rfl
  refine ⟨callTo target (s.pc + 3) s, returnFrom (callTo target (s.pc + 3) s), rfl, rfl, ?bytes, fun x hx1 hx2 => ?others,
    rfl, returnFrom_callTo target (s.pc + 3) hm h1 h2⟩
  case bytes =>
    rw [hpeek, hpeek, writeTwo_peek_first _ _ hne hm h1 h2, writeTwo_peek_second _ _ hm h1 h2, highByte_lowByte_toNat,
      BitVec.toNat_add]
    rfl
  case others => rw [hpeek, writeTwo_peek_other _ _ s hx1 hx2]

/-! ### The ports (R65) -/

/-- Settles O39: a port's transfer is one event after the earlier ones, and IN's byte is the environment's next answer. -/
theorem inAndOutAreEventsInOrder : Obligations.InAndOutAreEventsInOrder := fun _ _ =>
  ⟨fun _ => rfl, fun _ => rfl, ⟨_, rfl, rfl, fun _ _ hanswers => nextAnswer_of_cons _ hanswers⟩, rfl⟩

end Sys2Proof.Proofs

/-! What each instruction can do to memory and the environment: one relation, closed under the accesses whose addresses R66's
table names, that every meaning meets; and the step on top of it. -/

namespace Sys2Proof.Proofs

open Sys2Proof.Machine Sys2Proof.Safety Sys2Proof.Laws

/-- What of a state lies outside the registers, the flags, the control bits and the draw counter: memory with its map, and
the environment's side. -/
def outside (s : State) : Memory × List Region × List Event × List Byte × List Boundary :=
  (s.mem, s.memmap, s.events, s.answers, s.boundaries)

theorem outside_eq_iff {s t : State} :
    outside t = outside s ↔ t.mem = s.mem ∧ t.memmap = s.memmap ∧ t.events = s.events ∧ t.answers = s.answers ∧
      t.boundaries = s.boundaries := by
  simp [outside]

section

variable (s : State)

@[simp] theorem outside_advance (n : Word) : outside (s.advance n) = outside s := rfl
@[simp] theorem outside_setPc (v : Word) : outside (s.setPc v) = outside s := rfl
@[simp] theorem outside_setSP (v : Word) : outside (s.setSP v) = outside s := rfl
@[simp] theorem outside_setFlags (f : Flags) : outside (s.setFlags f) = outside s := rfl
@[simp] theorem outside_drawn : outside s.drawn = outside s := rfl
@[simp] theorem outside_setReg (r : Reg) (v : Byte) : outside (s.setReg r v) = outside s := by simp [outside_eq_iff]
@[simp] theorem outside_setPair (rp : RegPair) (v : Word) : outside (s.setPair rp v) = outside s := by
  simp [outside_eq_iff]
@[simp] theorem outside_setStackPair (rp : StackPair) (hi lo : Byte) : outside (s.setStackPair rp hi lo) = outside s := by
  simp [outside_eq_iff]
@[simp] theorem outside_accumulate (k : AluResult) : outside (s.accumulate k) = outside s := rfl
@[simp] theorem outside_logicResult (r : Byte) (ac : Bool) : outside (s.logicResult r ac) = outside s := rfl

end

/-- From `s` to `t` the memory map and the boundaries to come are kept, and the record of events only grows. -/
structure KeepsHistory (s t : State) : Prop where
  memmap : t.memmap = s.memmap
  boundaries : t.boundaries = s.boundaries
  events : s.events <+: t.events

namespace KeepsHistory

variable {s t u : State}

theorem refl (s : State) : KeepsHistory s s := ⟨rfl, rfl, List.prefix_refl _⟩

theorem trans (h1 : KeepsHistory s t) (h2 : KeepsHistory t u) : KeepsHistory s u :=
  ⟨h2.memmap.trans h1.memmap, h2.boundaries.trans h1.boundaries, h1.events.trans h2.events⟩

theorem ofAccess (h : AccessFrame s t) (hevents : s.events <+: t.events) : KeepsHistory s t :=
  ⟨h.memmap, h.boundaries, hevents⟩

theorem ofOutside (h : outside t = outside s) : KeepsHistory s t := by
  obtain ⟨-, hmap, hevents, -, hboundaries⟩ := outside_eq_iff.1 h
  exact ⟨hmap, hboundaries, hevents ▸ List.prefix_refl _⟩

theorem kindAt (h : KeepsHistory s t) (x : Word) : t.kindAt x = s.kindAt x := by rw [kindAt_eq, kindAt_eq, h.memmap]

end KeepsHistory

/-- R65, R66: the instruction is no port transfer, and from `s` none of its data addresses has a device. -/
def NoTransfer (i : Instr) (s : State) : Prop :=
  (∀ port, i ≠ .inPort port ∧ i ≠ .outPort port) ∧
    ∀ x, x ∈ loadAddresses i s ∨ x ∈ storeAddresses i s → s.kindAt x ≠ .device

/-- What instruction `i`, begun at `s`, may have done to memory and the environment by `t`: bytes change at its store
addresses only, and without a transfer the environment is left alone. -/
structure DataEffect (i : Instr) (s t : State) : Prop extends KeepsHistory s t where
  peek : ∀ x, x ∉ storeAddresses i s → t.peek x = s.peek x
  quiet : NoTransfer i s → t.events = s.events ∧ t.answers = s.answers

theorem operandAddress_of_accessFrame {s t : State} (h : AccessFrame s t) (o : Operand8) :
    operandAddress o t = operandAddress o s := by
  cases o
  case reg => rfl
  case m => rw [operandAddress, operandAddress, h.h, h.l]

namespace DataEffect

variable {i : Instr} {s t u : State}

theorem refl (i : Instr) (s : State) : DataEffect i s s := ⟨.refl s, fun _ _ => rfl, fun _ => ⟨rfl, rfl⟩⟩

theorem followedBy (h : DataEffect i s t) (hkeeps : KeepsHistory t u)
    (hpeek : ∀ x, x ∉ storeAddresses i s → u.peek x = t.peek x)
    (hquiet : NoTransfer i s → u.events = t.events ∧ u.answers = t.answers) : DataEffect i s u where
  toKeepsHistory := h.toKeepsHistory.trans hkeeps
  peek x hx := (hpeek x hx).trans (h.peek x hx)
  quiet hn := ⟨(hquiet hn).1.trans (h.quiet hn).1, (hquiet hn).2.trans (h.quiet hn).2⟩

/-- Registers, flags, control bits and draws are no part of the effect. -/
theorem inside (h : DataEffect i s t) (hu : outside u = outside t := by simp) : DataEffect i s u := by
  obtain ⟨hmem, -, hevents, hanswers, -⟩ := outside_eq_iff.1 hu
  exact h.followedBy (.ofOutside hu) (fun x _ => by rw [State.peek, State.peek, hmem]) fun _ => ⟨hevents, hanswers⟩

theorem advance (h : DataEffect i s t) (n : Word) : DataEffect i s (t.advance n) := h.inside

theorem load_notDevice (h : DataEffect i s t) (hn : NoTransfer i s) {x : Word} (hx : x ∈ loadAddresses i s) :
    t.kindAt x ≠ .device := by
  rw [h.kindAt]
  exact hn.2 x (.inl hx)

theorem store_notDevice (h : DataEffect i s t) (hn : NoTransfer i s) {x : Word} (hx : x ∈ storeAddresses i s) :
    t.kindAt x ≠ .device := by
  rw [h.kindAt]
  exact hn.2 x (.inr hx)

theorem memRead (h : DataEffect i s t) {x : Word} (hx : [x] ⊆ loadAddresses i s) :
    DataEffect i s (Machine.memRead x t).2 :=
  h.followedBy (.ofAccess (memRead_frame x t).access (memRead_events x t)) (fun y _ => (memRead_frame x t).peek y)
    fun hn => memRead_quiet (h.load_notDevice hn (hx (by simp)))

theorem memWrite (h : DataEffect i s t) {x : Word} (v : Byte) (hx : [x] ⊆ storeAddresses i s) :
    DataEffect i s (Machine.memWrite x v t) :=
  have hmem : x ∈ storeAddresses i s := hx (by simp)
  h.followedBy (.ofAccess (memWrite_frame x v t) (memWrite_events x v t))
    (fun _ hy => memWrite_peek_other v t (ne_of_mem_of_not_mem hmem hy).symm)
    fun hn => memWrite_quiet v (h.store_notDevice hn hmem)

theorem readTwo (h : DataEffect i s t) {x y : Word} (hxy : [x, y] ⊆ loadAddresses i s) :
    DataEffect i s (Machine.readTwo x y t).2 :=
  h.followedBy (.ofAccess (readTwo_frame x y t).access (readTwo_events x y t)) (fun z _ => (readTwo_frame x y t).peek z)
    fun hn => readTwo_quiet (h.load_notDevice hn (hxy (by simp))) (h.load_notDevice hn (hxy (by simp)))

theorem writeTwo (h : DataEffect i s t) {x y : Word} (vx vy : Byte) (hxy : [x, y] ⊆ storeAddresses i s) :
    DataEffect i s (Machine.writeTwo x vx y vy t) :=
  have hx : x ∈ storeAddresses i s := hxy (by simp)
  have hy : y ∈ storeAddresses i s := hxy (by simp)
  h.followedBy (.ofAccess (writeTwo_frame x vx y vy t) (writeTwo_events x vx y vy t))
    (fun _ hz => writeTwo_peek_other vx vy t (ne_of_mem_of_not_mem hx hz).symm (ne_of_mem_of_not_mem hy hz).symm)
    fun hn => writeTwo_quiet vx vy (h.store_notDevice hn hx) (h.store_notDevice hn hy)

theorem exchangeTwo (h : DataEffect i s t) {x y : Word} (vx vy : Byte) (hxy : [x, y] ⊆ storeAddresses i s) :
    DataEffect i s (Machine.exchangeTwo x vx y vy t).2 :=
  have hx : x ∈ storeAddresses i s := hxy (by simp)
  have hy : y ∈ storeAddresses i s := hxy (by simp)
  h.followedBy (.ofAccess (exchangeTwo_frame x vx y vy t) (exchangeTwo_events x vx y vy t))
    (fun _ hz => exchangeTwo_peek_other vx vy t (ne_of_mem_of_not_mem hx hz).symm (ne_of_mem_of_not_mem hy hz).symm)
    fun hn => exchangeTwo_quiet vx vy (h.store_notDevice hn hx) (h.store_notDevice hn hy)

theorem src8 (h : DataEffect i s t) {o : Operand8} (ho : operandAddress o t ⊆ loadAddresses i s) :
    DataEffect i s (Machine.src8 o t).2 := by
  cases o
  case reg => exact h
  case m => exact h.memRead ho

theorem dst8 (h : DataEffect i s t) {o : Operand8} (v : Byte) (ho : operandAddress o t ⊆ storeAddresses i s) :
    DataEffect i s (Machine.dst8 o v t) := by
  cases o
  case reg r => exact h.inside (outside_setReg t r v)
  case m => exact h.memWrite v ho

theorem countedOperand (h : DataEffect i s t) {o : Operand8} (k : AluResult)
    (ho : operandAddress o t ⊆ storeAddresses i s) : DataEffect i s (t.countedOperand o k) :=
  (h.dst8 k.r ho).inside (outside_setFlags _ _)

theorem pushBytes (h : DataEffect i s t) (hi lo : Byte) (hsp : [t.sp - 1, t.sp - 2] ⊆ storeAddresses i s) :
    DataEffect i s (Machine.pushBytes hi lo t) :=
  (h.writeTwo hi lo hsp).inside (outside_setSP _ _)

theorem popBytes (h : DataEffect i s t) (hsp : [t.sp, t.sp + 1] ⊆ loadAddresses i s) :
    DataEffect i s (Machine.popBytes t).2 :=
  (h.readTwo hsp).inside (outside_setSP _ _)

theorem callTo (h : DataEffect i s t) (target next : Word) (hsp : [t.sp - 1, t.sp - 2] ⊆ storeAddresses i s) :
    DataEffect i s (Machine.callTo target next t) :=
  (h.pushBytes (highByte next) (lowByte next) hsp).inside (outside_setPc _ _)

theorem returnFrom (h : DataEffect i s t) (hsp : [t.sp, t.sp + 1] ⊆ loadAddresses i s) :
    DataEffect i s (Machine.returnFrom t) :=
  (h.popBytes hsp).inside (outside_setPc _ _)

/-- A port transfer is an event of the instruction that is one (R65). -/
theorem portTransfer (h : DataEffect i s t) {port : Byte} (hi : i = .inPort port ∨ i = .outPort port)
    (hframe : ReadFrame t u) (hevents : t.events <+: u.events) : DataEffect i s u :=
  h.followedBy (.ofAccess hframe.access hevents) (fun x _ => hframe.peek x)
    fun hn => (hi.elim (hn.1 port).1 (hn.1 port).2).elim

end DataEffect

section

variable {i : Instr} {s t : State} {cond : Cond} {addr : Word}

theorem jumpIf_dataEffect (h : jumpIf cond addr s = .next t) : DataEffect i s t := by
  cases h
  split <;> exact (DataEffect.refl i s).inside

/-- A conditional call stores when its condition holds (R66, R191). -/
theorem callIf_dataEffect (h : callIf cond addr s = .next t)
    (hstores : storeAddresses i s = if condTrue cond s.flags then [s.sp - 1, s.sp - 2] else []) : DataEffect i s t := by
  cases h
  rw [condTrue_eq_condHolds] at hstores
  split
  case isTrue hcond =>
    rw [if_pos hcond] at hstores
    exact (DataEffect.refl i s).callTo addr _ (hstores ▸ List.Subset.refl _)
  case isFalse => exact (DataEffect.refl i s).advance 3

/-- A conditional return loads when its condition holds (R66, R201). -/
theorem returnIf_dataEffect (h : returnIf cond s = .next t)
    (hloads : loadAddresses i s = if condTrue cond s.flags then [s.sp, s.sp + 1] else []) : DataEffect i s t := by
  cases h
  rw [condTrue_eq_condHolds] at hloads
  split
  case isTrue hcond =>
    rw [if_pos hcond] at hloads
    exact (DataEffect.refl i s).returnFrom (hloads ▸ List.Subset.refl _)
  case isFalse => exact (DataEffect.refl i s).advance 1

end

/-- R65, R66: each instruction keeps to the addresses of its rows. Each case names the accesses of its meaning; the rest of
the meaning is inside the processor. -/
theorem exec_dataEffect {i : Instr} {s t : State} (h : exec i s = .next t) : DataEffect i s t := by
  have hs : DataEffect i s s := .refl i s
  have hrefl (l : List Word) : l ⊆ l := List.Subset.refl l
  have hoperand (src o : Operand8) : operandAddress o (src8 src s).2 ⊆ operandAddress o s := by
    rw [operandAddress_of_accessFrame (src8_frame src s).access]
    exact hrefl _
  have hindirect (rp : IndirectPair) : [s.indirect rp] ⊆ [indirectAddress rp s] := by
    cases rp <;> exact hrefl _
  cases i
  -- one operand read, one written, or both
  case mov dst src =>
    cases h.symm.trans (execMov_of_next h s)
    exact ((hs.src8 (hrefl _)).dst8 _ (hoperand src dst)).advance 1
  case mvi dst data => cases h; exact (hs.dst8 data (hrefl _)).advance 2
  case inr dst | dcr dst => cases h; exact ((hs.src8 (hrefl _)).countedOperand _ (hoperand dst dst)).advance 1
  case add src | adc src | sub src | sbb src | ana src | xra src | ora src | cmp src =>
    cases h
    exact (hs.src8 (o := src) (hrefl _)).inside
  -- one byte at a direct or indirect address
  case lda addr => cases h; exact (hs.memRead (hrefl [addr])).inside
  case sta addr => cases h; exact (hs.memWrite s.a (hrefl [addr])).advance 3
  case ldax rp => cases h; exact (hs.memRead (hindirect rp)).inside
  case stax rp => cases h; exact (hs.memWrite s.a (hindirect rp)).advance 1
  -- two bytes, at a direct address or on the stack
  case lhld addr => cases h; exact (hs.readTwo (hrefl [addr, addr + 1])).inside
  case shld addr => cases h; exact (hs.writeTwo s.l s.h (hrefl [addr, addr + 1])).advance 3
  case xthl => cases h; exact (hs.exchangeTwo s.l s.h (hrefl [s.sp, s.sp + 1])).inside
  case push rp => cases h; exact (hs.pushBytes _ _ (hrefl _)).advance 1
  case pop rp => cases h; exact (hs.popBytes (hrefl _)).inside
  case call addr => cases h; exact hs.callTo addr _ (hrefl _)
  case rst n => cases h; exact hs.callTo _ _ (hrefl _)
  case ret => cases h; exact hs.returnFrom (hrefl _)
  case cnz | cz | cnc | cc | cpo | cpe | cp | cm => exact callIf_dataEffect h rfl
  case rnz | rz | rnc | rc | rpo | rpe | rp | rm => exact returnIf_dataEffect h rfl
  -- the ports
  case inPort port =>
    cases h
    exact (hs.portTransfer (.inl rfl) (u := (ioRead port s).2) rfl (envRead_events _ s)).inside
  case outPort port =>
    cases h
    exact (hs.portTransfer (.inr rfl) (u := ioWrite port s.a s) rfl (envWrite_events _ _ s)).advance 2
  -- no access: pc alone, or a register or a pair beside it
  case jnz | jz | jnc | jc | jpo | jpe | jp | jm => exact jumpIf_dataEffect h
  case lxi | inx | dcx => cases h; exact hs.inside
  all_goals cases h; exact hs.inside rfl

/-- Settles O53: the memory part of what every instruction can do outside the processor. -/
theorem memoryChangesOnlyAtStoreAddresses : Obligations.MemoryChangesOnlyAtStoreAddresses :=
  fun _ _ _ x h hx => (exec_dataEffect h).peek x hx

/-- Settles O55: the environment's part of what every instruction can do outside the processor. -/
theorem environmentTouchedOnlyByTransfers : Obligations.EnvironmentTouchedOnlyByTransfers :=
  fun _ _ _ h hports hdevices => (exec_dataEffect h).quiet ⟨hports, hdevices⟩

/-! ### The step -/

theorem readOperandBytes_keepsHistory (n : Nat) (s : State) : KeepsHistory s (readOperandBytes n s).2 := by
  unfold readOperandBytes
  split
  case h_1 => exact .ofAccess (memRead_frame _ s).access (memRead_events _ s)
  case h_2 => exact .ofAccess (readTwo_frame _ _ s).access (readTwo_events _ _ s)
  case h_3 => exact .refl s

/-- The reads of a fetch: of the first byte, then of the operand bytes (R9). -/
theorem fetch_keepsHistory {s t : State} {i : Instr} (h : fetch s = .ok (i, t)) : KeepsHistory s t := by
  have hfirst : KeepsHistory s (memRead s.pc s).2 := .ofAccess (memRead_frame _ s).access (memRead_events _ s)
  simp only [fetch] at h
  split at h
  case h_1 => cases h
  case h_2 n _ =>
    split at h
    case h_1 => cases h; exact hfirst.trans (readOperandBytes_keepsHistory n _)
    case h_2 => cases h

theorem endOfStep_keepsHistory (i : Instr) (s : State) : KeepsHistory s (endOfStep i s) := by
  rw [endOfStep_eq]
  exact .ofOutside rfl

theorem performInstruction_keepsHistory {s t : State} (h : performInstruction s = .next t) : KeepsHistory s t := by
  unfold performInstruction at h
  split at h
  case h_1 => cases h
  case h_2 i u hfetch =>
    split at h
    case h_1 v hexec =>
      cases h
      exact ((fetch_keepsHistory hfetch).trans (exec_dataEffect hexec).toKeepsHistory).trans (endOfStep_keepsHistory i v)
    case h_2 => cases h
    case h_3 => cases h

/-- R248: an instruction, or a wait that changes nothing. -/
theorem proceed_keepsHistory {s t : State} (h : proceed s = .next t) : KeepsHistory s t := by
  unfold proceed at h
  split at h
  · split at h
    · cases h; exact .refl s
    · cases h
  · exact performInstruction_keepsHistory h

theorem callTo_keepsHistory (target next : Word) (s : State) : KeepsHistory s (callTo target next s) := by
  rw [callTo_eq]
  exact (KeepsHistory.ofAccess (writeTwo_frame _ _ _ _ s) (writeTwo_events _ _ _ _ s)).trans (.ofOutside rfl)

/-- R242, R245: the acceptance is recorded, and then the restart pushes pc. -/
theorem acceptInterrupt_keepsHistory {b : Byte} {s t : State} (h : acceptInterrupt b s = .next t) : KeepsHistory s t := by
  obtain ⟨n, -, rfl⟩ := acceptInterrupt_next h
  have hrecorded : KeepsHistory s
      { s with inte := false, eiPending := false, halted := false, events := s.events ++ [.interruptAccepted b] } :=
    ⟨rfl, rfl, List.prefix_append _ _⟩
  exact hrecorded.trans (callTo_keepsHistory _ _ _)

/-- R247, R248: past its boundary a step is a reset, an acceptance, or what the processor does by itself. -/
theorem step_keepsHistory {s t : State} (h : step s = .next t) : KeepsHistory s.pastBoundary t := by
  unfold step cycle at h
  split at h
  case isTrue => cases h; exact .ofOutside rfl
  case isFalse =>
    split at h
    case h_1 => exact proceed_keepsHistory h
    case h_2 =>
      split at h
      case isTrue => exact acceptInterrupt_keepsHistory h
      case isFalse => exact proceed_keepsHistory h

/-- Settles O58: taking the boundary off changes the boundaries only, and what follows keeps the rest. -/
theorem stepKeepsMapAndHistory : Obligations.StepKeepsMapAndHistory := by
  intro s t h
  obtain ⟨hmap, hboundaries, hevents⟩ := step_keepsHistory h
  exact ⟨hmap, hboundaries, hevents⟩

end Sys2Proof.Proofs

/-! The decoder and the encoder, each way (30_encoding.md R70 to R84): what the row of a first byte says of its fields, the
round trips, and the values that no row matches. -/

namespace Sys2Proof.Proofs

open Sys2Proof.Machine Sys2Proof.Safety Sys2Proof.Laws

/-! ### A first byte is its fixed bits and its fields (R70, R73) -/

/-- A field put into the place that the fixed bits leave free. -/
theorem or_append_field {m n k : Nat} (hi : BitVec m) (field : BitVec n) (lo : BitVec k) :
    (hi ++ 0#n ++ lo) ||| (0#m ++ field ++ 0#k) = hi ++ field ++ lo := by
  rw [BitVec.or_append, BitVec.or_append, BitVec.or_zero, BitVec.zero_or, BitVec.or_zero]

/-- A byte of the form `01 DDD SSS`. -/
theorem append_midField_lowField {b : Byte} (h : b &&& 0xC0#8 = 0b01#2 ++ 0#6) :
    0b01#2 ++ midField b ++ lowField b = b := by
  have hsplit : ∀ b : Byte, (b &&& 0xC0#8) ||| (0#2 ++ midField b ++ lowField b) = b := by decide +kernel
  calc 0b01#2 ++ midField b ++ lowField b
      = (0b01#2 ++ 0#3 ++ 0#3) ||| (0#2 ++ midField b ++ lowField b) := by
        rw [BitVec.or_append, BitVec.or_append, BitVec.or_zero, BitVec.zero_or, BitVec.zero_or]
    _ = b := h ▸ hsplit b

/-- A byte of the form `oo DDD ooo` or `oo NNN ooo`. -/
theorem append_midField {hi : BitVec 2} {lo : BitVec 3} {b : Byte} (h : b &&& 0xC7#8 = hi ++ 0#3 ++ lo) :
    hi ++ midField b ++ lo = b := by
  have hsplit : ∀ b : Byte, (b &&& 0xC7#8) ||| (0#2 ++ midField b ++ 0#3) = b := by decide +kernel
  calc hi ++ midField b ++ lo
      = (hi ++ 0#3 ++ lo) ||| (0#2 ++ midField b ++ 0#3) := (or_append_field hi (midField b) lo).symm
    _ = b := h ▸ hsplit b

/-- A byte of the form `ooooo SSS`. -/
theorem append_lowField {hi : BitVec 5} {b : Byte} (h : b &&& 0xF8#8 = hi ++ 0#3) : hi ++ lowField b = b := by
  have hsplit : ∀ b : Byte, (b &&& 0xF8#8) ||| (0#5 ++ lowField b) = b := by decide +kernel
  calc hi ++ lowField b
      = (hi ++ 0#3) ||| (0#5 ++ lowField b) := by rw [BitVec.or_append, BitVec.or_zero, BitVec.zero_or]
    _ = b := h ▸ hsplit b

/-- A byte of the form `oo RP oooo`. -/
theorem append_pairField {hi : BitVec 2} {lo : BitVec 4} {b : Byte} (h : b &&& 0xCF#8 = hi ++ 0#2 ++ lo) :
    hi ++ pairField b ++ lo = b := by
  have hsplit : ∀ b : Byte, (b &&& 0xCF#8) ||| (0#2 ++ pairField b ++ 0#4) = b := by decide +kernel
  calc hi ++ pairField b ++ lo
      = (hi ++ 0#2 ++ lo) ||| (0#2 ++ pairField b ++ 0#4) := (or_append_field hi (pairField b) lo).symm
    _ = b := h ▸ hsplit b

/-- A byte of the form `00 RP oooo` with RP below 10 (R75): bit 5 is fixed too. -/
theorem append_codeOfIndirectPair {lo : BitVec 4} {b : Byte} (h : b &&& 0xEF#8 = 0b00#2 ++ 0#2 ++ lo) :
    0b00#2 ++ codeOfIndirectPair (indirectPairOfCode (pairField b)) ++ lo = b := by
  have hcode : ∀ b : Byte, b &&& 0x20#8 = 0#8 → codeOfIndirectPair (indirectPairOfCode (pairField b)) = pairField b := by
    decide +kernel
  have hbit5 : b &&& 0x20#8 = 0#8 := calc
    b &&& 0x20#8 = (b &&& 0xEF#8) &&& 0x20#8 := (BitVec.and_assoc b 0xEF#8 0x20#8).symm
    _ = 0#8 := by rw [h]; clear h; revert lo; decide
  have hothers : b &&& 0xCF#8 = 0b00#2 ++ 0#2 ++ lo := calc
    b &&& 0xCF#8 = (b &&& 0xEF#8) &&& 0xCF#8 := (BitVec.and_assoc b 0xEF#8 0xCF#8).symm
    _ = 0b00#2 ++ 0#2 ++ lo := by rw [h]; clear h; revert lo; decide
  rw [hcode b hbit5, append_pairField hothers]

/-! ### Each row writes back the bytes it reads (R80) -/

/-- The instruction a row builds from a first byte it matches is encoded by that byte and the operand bytes the row reads. -/
def WritesBack (row : OpcodeRow) : Prop :=
  ∀ b b2 b3, row.matchesByte b = true → encode (row.build b b2 b3) = [b, b2, b3].take row.length

theorem maskedBits_of_matchesByte {row : OpcodeRow} {b : Byte} (h : row.matchesByte b = true) :
    b &&& row.mask = row.pattern := by
  simp only [OpcodeRow.matchesByte, Bool.and_eq_true, beq_iff_eq] at h
  exact h.1

section

variable {mnemonic : String} {pattern : Byte} {except : List Byte} {length : Nat} {build : Byte → Byte → Byte → Instr}

/-- The shape of every row's proof: `spelled b` is the first byte as the encoder composes it from the fields of `b`. -/
theorem writesBack_of_firstByte {row : OpcodeRow} (spelled : Byte → Byte)
    (hspelled : ∀ b, b &&& row.mask = row.pattern → spelled b = b)
    (hencode : ∀ b b2 b3, encode (row.build b b2 b3) = [spelled b, b2, b3].take row.length) : WritesBack row := by
  intro b b2 b3 hb
  rw [hencode, hspelled b (maskedBits_of_matchesByte hb)]

/-- Formats IMP, I8, P8, A16, CC_A16 and CC: no field, the first byte is the pattern. -/
theorem writesBack_fixed (hencode : ∀ b b2 b3, encode (build b b2 b3) = [pattern, b2, b3].take length) :
    WritesBack ⟨mnemonic, 0xFF#8, pattern, except, length, build⟩ :=
  writesBack_of_firstByte (fun _ => pattern) (fun b hb => hb.symm.trans (BitVec.and_allOnes (x := b))) hencode

/-- Format S. -/
theorem writesBack_lowField (hi : BitVec 5) (hpattern : pattern = hi ++ 0#3)
    (hencode : ∀ b b2 b3, encode (build b b2 b3) = [hi ++ lowField b, b2, b3].take length) :
    WritesBack ⟨mnemonic, 0xF8#8, pattern, except, length, build⟩ :=
  writesBack_of_firstByte _ (fun _ hb => append_lowField (hb.trans hpattern)) hencode

/-- Formats D, D_I8 and N. -/
theorem writesBack_midField (hi : BitVec 2) (lo : BitVec 3) (hpattern : pattern = hi ++ 0#3 ++ lo)
    (hencode : ∀ b b2 b3, encode (build b b2 b3) = [hi ++ midField b ++ lo, b2, b3].take length) :
    WritesBack ⟨mnemonic, 0xC7#8, pattern, except, length, build⟩ :=
  writesBack_of_firstByte _ (fun _ hb => append_midField (hb.trans hpattern)) hencode

/-- Formats RP and RP_I16. -/
theorem writesBack_pairField (hi : BitVec 2) (lo : BitVec 4) (hpattern : pattern = hi ++ 0#2 ++ lo)
    (hencode : ∀ b b2 b3, encode (build b b2 b3) = [hi ++ pairField b ++ lo, b2, b3].take length) :
    WritesBack ⟨mnemonic, 0xCF#8, pattern, except, length, build⟩ :=
  writesBack_of_firstByte _ (fun _ hb => append_pairField (hb.trans hpattern)) hencode

/-- LDAX and STAX of format RP, whose bytes have RP below 10. -/
theorem writesBack_indirectPair (lo : BitVec 4) (hpattern : pattern = 0b00#2 ++ 0#2 ++ lo)
    (hencode : ∀ b b2 b3, encode (build b b2 b3) =
      [0b00#2 ++ codeOfIndirectPair (indirectPairOfCode (pairField b)) ++ lo, b2, b3].take length) :
    WritesBack ⟨mnemonic, 0xEF#8, pattern, except, length, build⟩ :=
  writesBack_of_firstByte _ (fun _ hb => append_codeOfIndirectPair (hb.trans hpattern)) hencode

/-- MOV, format DS. -/
theorem writesBack_bothFields (hpattern : pattern = 0b01#2 ++ 0#6)
    (hencode : ∀ b b2 b3, encode (build b b2 b3) = [0b01#2 ++ midField b ++ lowField b, b2, b3].take length) :
    WritesBack ⟨mnemonic, 0xC0#8, pattern, except, length, build⟩ :=
  writesBack_of_firstByte _ (fun _ hb => append_midField_lowField (hb.trans hpattern)) hencode

end

theorem dataTransferRows_writeBack : ∀ row ∈ dataTransferRows, WritesBack row := by
  simp only [dataTransferRows, List.forall_mem_cons]
  refine ⟨?mov, ?mvi, ?lxi, ?lda, ?sta, ?lhld, ?shld, ?ldax, ?stax, ?xchg, List.forall_mem_nil _⟩
  case mov => exact writesBack_bothFields rfl fun _ _ _ => by simp [encode]
  case mvi => exact writesBack_midField 0b00#2 0b110#3 rfl fun _ _ _ => by simp [encode]
  case lxi => exact writesBack_pairField 0b00#2 0b0001#4 rfl fun _ _ _ => by simp [encode, withOperand16]
  case ldax => exact writesBack_indirectPair 0b1010#4 rfl fun _ _ _ => rfl
  case stax => exact writesBack_indirectPair 0b0010#4 rfl fun _ _ _ => rfl
  case lda | sta | lhld | shld => exact writesBack_fixed fun _ _ _ => by simp [encode, withOperand16]
  case xchg => exact writesBack_fixed fun _ _ _ => rfl

theorem arithmeticRows_writeBack : ∀ row ∈ arithmeticRows, WritesBack row := by
  simp only [arithmeticRows, List.forall_mem_cons]
  refine ⟨?add, ?adc, ?sub, ?sbb, ?adi, ?aci, ?sui, ?sbi, ?inr, ?dcr, ?inx, ?dcx, ?dad, ?daa, List.forall_mem_nil _⟩
  case add => exact writesBack_lowField 0b10000#5 rfl fun _ _ _ => by simp [encode]
  case adc => exact writesBack_lowField 0b10001#5 rfl fun _ _ _ => by simp [encode]
  case sub => exact writesBack_lowField 0b10010#5 rfl fun _ _ _ => by simp [encode]
  case sbb => exact writesBack_lowField 0b10011#5 rfl fun _ _ _ => by simp [encode]
  case inr => exact writesBack_midField 0b00#2 0b100#3 rfl fun _ _ _ => by simp [encode]
  case dcr => exact writesBack_midField 0b00#2 0b101#3 rfl fun _ _ _ => by simp [encode]
  case inx => exact writesBack_pairField 0b00#2 0b0011#4 rfl fun _ _ _ => by simp [encode]
  case dcx => exact writesBack_pairField 0b00#2 0b1011#4 rfl fun _ _ _ => by simp [encode]
  case dad => exact writesBack_pairField 0b00#2 0b1001#4 rfl fun _ _ _ => by simp [encode]
  case adi | aci | sui | sbi | daa => exact writesBack_fixed fun _ _ _ => rfl

theorem logicalRows_writeBack : ∀ row ∈ logicalRows, WritesBack row := by
  simp only [logicalRows, List.forall_mem_cons]
  refine ⟨?ana, ?xra, ?ora, ?cmp, ?ani, ?xri, ?ori, ?cpi, ?rlc, ?rrc, ?ral, ?rar, ?cma, ?cmc, ?stc, List.forall_mem_nil _⟩
  case ana => exact writesBack_lowField 0b10100#5 rfl fun _ _ _ => by simp [encode]
  case xra => exact writesBack_lowField 0b10101#5 rfl fun _ _ _ => by simp [encode]
  case ora => exact writesBack_lowField 0b10110#5 rfl fun _ _ _ => by simp [encode]
  case cmp => exact writesBack_lowField 0b10111#5 rfl fun _ _ _ => by simp [encode]
  case ani | xri | ori | cpi | rlc | rrc | ral | rar | cma | cmc | stc => exact writesBack_fixed fun _ _ _ => rfl

theorem branchRows_writeBack : ∀ row ∈ branchRows, WritesBack row := by
  simp only [branchRows, List.forall_mem_cons]
  refine ⟨?jmp, ?jnz, ?jz, ?jnc, ?jc, ?jpo, ?jpe, ?jp, ?jm, ?call, ?cnz, ?cz, ?cnc, ?cc, ?cpo, ?cpe, ?cp, ?cm,
    ?ret, ?rnz, ?rz, ?rnc, ?rc, ?rpo, ?rpe, ?rp, ?rm, ?rst, ?pchl, List.forall_mem_nil _⟩
  case rst => exact writesBack_midField 0b11#2 0b111#3 rfl fun _ _ _ => rfl
  case ret | rnz | rz | rnc | rc | rpo | rpe | rp | rm | pchl => exact writesBack_fixed fun _ _ _ => rfl
  all_goals exact writesBack_fixed fun _ _ _ => by simp [encode, withOperand16]

theorem stackIoControlRows_writeBack : ∀ row ∈ stackIoControlRows, WritesBack row := by
  simp only [stackIoControlRows, List.forall_mem_cons]
  refine ⟨?push, ?pop, ?xthl, ?sphl, ?inPort, ?outPort, ?ei, ?di, ?hlt, ?nop, List.forall_mem_nil _⟩
  case push => exact writesBack_pairField 0b11#2 0b0101#4 rfl fun _ _ _ => by simp [encode]
  case pop => exact writesBack_pairField 0b11#2 0b0001#4 rfl fun _ _ _ => by simp [encode]
  all_goals exact writesBack_fixed fun _ _ _ => rfl

theorem opcodeTable_writesBack : ∀ row ∈ opcodeTable, WritesBack row := by
  simp only [opcodeTable, List.forall_mem_append]
  exact ⟨⟨⟨⟨dataTransferRows_writeBack, arithmeticRows_writeBack⟩, logicalRows_writeBack⟩, branchRows_writeBack⟩,
    stackIoControlRows_writeBack⟩

/-- R80: the row of a first byte stands in the table and matches the byte. -/
theorem mem_and_matchesByte_of_rowOf {b : Byte} {row : OpcodeRow} (h : rowOf b = some row) :
    row ∈ opcodeTable ∧ row.matchesByte b = true :=
  ⟨List.mem_of_find?_eq_some h, List.find?_some (p := fun r : OpcodeRow => r.matchesByte b) h⟩

/-- Settles O2: what decodes is what the row of its first byte builds, and every row writes back what it reads. -/
theorem encodeOfDecodeIsIdentity : Obligations.EncodeOfDecodeIsIdentity := by
  intro bytes i rest h
  refine ⟨wellFormed_of_decode h, ?_⟩
  obtain ⟨b, b2, b3, row, hrow, rfl, hbytes⟩ := decode_eq_ok h
  obtain ⟨hmem, hmatches⟩ := mem_and_matchesByte_of_rowOf hrow
  have hencode := opcodeTable_writesBack row hmem b b2 b3 hmatches
  obtain ⟨hlen, rfl⟩ | ⟨hlen, rfl⟩ | ⟨hlen, rfl⟩ := hbytes <;> rw [hencode, hlen] <;> rfl

/-! ### Each instruction is read back from its bytes (R71, R72) -/

/-- R78: a first byte whose row has three bytes, followed by the two halves of `v`, is read as the row's instruction with
operand `v`. -/
theorem decode_withOperand16 {b : Byte} {row : OpcodeRow} {f : Word → Instr} (hrow : rowOf b = some row)
    (hlen : row.length = 3) (hbuild : ∀ b2 b3, row.build b b2 b3 = f (join b3 b2)) (v : Word) (rest : List Byte) :
    decode (withOperand16 b v ++ rest) = .ok (f v, rest) := by
  simp only [withOperand16, List.cons_append, List.nil_append, decode, hrow]
  rw [hlen]
  simp only [hbuild, join_high_low]

/-- R81: the codes of two operands, not both M, make a first byte of MOV's row. -/
theorem decode_encode_mov {dst src : Operand8} (hwf : (Instr.mov dst src).wellFormed = true) (rest : List Byte) :
    decode (encode (.mov dst src) ++ rest) = .ok (.mov dst src, rest) := by
  rcases dst with r | _ <;> rcases src with q | _
  · cases r <;> cases q <;> rfl
  · cases r <;> rfl
  · cases q <;> rfl
  · cases hwf

/-- Settles O1, by the formats of R72: once the code of a field is fixed the first byte is closed and its row is found by
evaluation; a 16-bit operand is joined again from its halves. -/
theorem decodeOfEncodeIsIdentity : Obligations.DecodeOfEncodeIsIdentity := by
  intro i hwf rest
  cases i
  case mov => exact decode_encode_mov hwf rest
  case mvi o _ | add o | adc o | sub o | sbb o | inr o | dcr o | ana o | xra o | ora o | cmp o =>
    rcases o with r | _
    · cases r <;> rfl
    · rfl
  case lxi rp v => cases rp <;> exact decode_withOperand16 rfl rfl (fun _ _ => rfl) v rest
  case ldax rp | stax rp | inx rp | dcx rp | dad rp | push rp | pop rp => cases rp <;> rfl
  case rst n =>
    obtain ⟨n⟩ := n
    fin_cases n <;> rfl
  case lda v | sta v | lhld v | shld v | jmp v | jnz v | jz v | jnc v | jc v | jpo v | jpe v | jp v | jm v | call v |
      cnz v | cz v | cnc v | cc v | cpo v | cpe v | cp v | cm v =>
    exact decode_withOperand16 rfl rfl (fun _ _ => rfl) v rest
  all_goals rfl

/-- Settles O5: the written words are what the encoder writes for these instructions. -/
theorem writtenWordsDecode : Obligations.WrittenWordsDecode :=
  ⟨decodeOfEncodeIsIdentity (.mov (.reg .l) .m) rfl [], decodeOfEncodeIsIdentity (.lxi .sp 0x2400#16) rfl [],
    decodeOfEncodeIsIdentity (.sbb (.reg .e)) rfl [], decodeOfEncodeIsIdentity (.cpi 0x40#8) rfl [],
    decodeOfEncodeIsIdentity (.jpe 0x1234#16) rfl [], decodeOfEncodeIsIdentity (.push .psw) rfl [],
    decodeOfEncodeIsIdentity .hlt rfl []⟩

/-! ### The rows a first byte matches, and its length (R79, R80, R82) -/

/-- R82's 12 values. -/
def undefinedBytes : List Byte :=
  [0x08#8, 0x10#8, 0x18#8, 0x20#8, 0x28#8, 0x30#8, 0x38#8, 0xCB#8, 0xD9#8, 0xDD#8, 0xED#8, 0xFD#8]

/-- R79's table, R82's values before it. -/
def tabledLength (b : Byte) : Option Nat :=
  if b ∈ undefinedBytes then none
  else if b &&& 0xCF#8 = 0x01#8 ∨ b ∈ [0x22#8, 0x2A#8, 0x32#8, 0x3A#8, 0xC3#8, 0xCD#8] ∨ b &&& 0xC7#8 = 0xC2#8 ∨
    b &&& 0xC7#8 = 0xC4#8 then some 3
  else if b &&& 0xC7#8 = 0x06#8 ∨ b &&& 0xC7#8 = 0xC6#8 ∨ b = 0xDB#8 ∨ b = 0xD3#8 then some 2
  else some 1

/-- The one evaluation of the table at all 256 first bytes: the rows that match, by their lengths. -/
theorem lengths_of_matching_rows : ∀ b : Byte,
    (opcodeTable.filter (fun row => row.matchesByte b)).map OpcodeRow.length = (tabledLength b).toList := by
  decide +kernel

theorem tabledLength_eq_none_iff (b : Byte) : tabledLength b = none ↔ b ∈ undefinedBytes := by
  unfold tabledLength
  split_ifs <;> simp_all

theorem instrLength_eq_head?_of_matching_rows (b : Byte) :
    instrLength b = ((opcodeTable.filter (fun row => row.matchesByte b)).map OpcodeRow.length).head? := by
  rw [List.head?_map, List.head?_filter]
  rfl

/-- Settles O3: the rows that match are as many as the lengths R79's table gives, none or one. -/
theorem firstByteMatchesAtMostOneRow : Obligations.FirstByteMatchesAtMostOneRow := by
  intro b
  change _ = if b ∈ undefinedBytes then 0 else 1
  rw [← List.length_map (f := OpcodeRow.length), lengths_of_matching_rows]
  simp only [← tabledLength_eq_none_iff]
  cases tabledLength b <;> rfl

/-- Settles O4: the length is that of the first row that matches. -/
theorem lengthFollowsFirstByte : Obligations.LengthFollowsFirstByte := by
  intro b
  rw [instrLength_eq_head?_of_matching_rows, lengths_of_matching_rows, Option.head?_toList]
  rfl

/-! ### An undefined first byte (R82, R241) -/

theorem instrLength_eq_none_iff (b : Byte) : instrLength b = none ↔ b ∈ undefinedBytes := by
  rw [lengthFollowsFirstByte b]
  exact tabledLength_eq_none_iff b

theorem performInstruction_of_undefined {s : State} {b : Byte} (hread : (memRead s.pc s).1 = b)
    (hlength : instrLength b = none) : performInstruction s = .fault (.undefinedOpcode s.pc b) := by
  simp [performInstruction, fetch, hread, hlength]

/-- Settles O42: the fetch reads the byte at pc, finds no length for it and stops. -/
theorem undefinedOpcodeFaults : Obligations.UndefinedOpcodeFaults := by
  intro s b hproceeds hbyte hundefined
  have hpast : StandsAtPc s.pastBoundary [b] := hbyte
  have hread : (memRead s.pastBoundary.pc s.pastBoundary).1 = b := congrArg Prod.fst (memRead_pc_of_standsAtPc hpast)
  rw [step_of_proceeds hproceeds]
  exact performInstruction_of_undefined hread ((instrLength_eq_none_iff b).2 hundefined)

/-! ### What a code names (R74, R75) -/

theorem setPair_join (s : State) (hi lo : Byte) :
    s.setPair .b (join hi lo) = { s with b := hi, c := lo } ∧ s.setPair .d (join hi lo) = { s with d := hi, e := lo } ∧
      s.setPair .h (join hi lo) = { s with h := hi, l := lo } := by
  simp [State.setPair, State.setBC, State.setDE, State.setHL]

/-- Settles O7: each code is closed, so that all but the halves of a joined pair is by definition. -/
theorem operandCodesNameTheirOperands : Obligations.OperandCodesNameTheirOperands := by
  intro s v w
  obtain ⟨hbc, hde, hhl⟩ := setPair_join s v w
  exact ⟨rfl, rfl, rfl, rfl, rfl, rfl, rfl, rfl, rfl, rfl, rfl, rfl, rfl, rfl, rfl, rfl, rfl, rfl, rfl, rfl, hbc, hde, hhl,
    rfl, rfl, rfl, rfl, rfl, rfl, rfl⟩

end Sys2Proof.Proofs

/-! The data transfer instructions (40_data_transfer.md R100 to R111): the bytes that spell each and its whole next state. -/

namespace Sys2Proof.Proofs

open Sys2Proof.Machine Sys2Proof.Safety Sys2Proof.Laws

/-! ### What spells an instruction (R71, R72, R78) -/

theorem spells_of_encode {i : Instr} {bytes : List Byte} (hwf : i.wellFormed = true) (h : encode i = bytes) :
    Spells i bytes :=
  fun rest => h ▸ decodeOfEncodeIsIdentity i hwf rest

/-- R78: a 16-bit operand stands low-order byte first, so that byte 3 is its high-order half. -/
theorem spells_of_operand16 {i : Instr} {b b2 b3 : Byte} (hwf : i.wellFormed = true)
    (h : encode i = withOperand16 b (join b3 b2)) : Spells i [b, b2, b3] :=
  spells_of_encode hwf (by rw [h, withOperand16, lowByte_join, highByte_join])

/-! ### The next state of each transfer -/

/-- R23: past an access or a register write, which leave pc alone, the next pc counts from the pc before the instruction. -/
theorem next_advance {s t : State} (n : Word) (h : t.pc = s.pc) :
    (.next (t.advance n) : Result) = .next { t with pc := s.pc + n } := by
  rw [State.advance, h]

theorem exec_mov {dst src : Operand8} (hwf : (Instr.mov dst src).wellFormed = true) (s : State) :
    exec (.mov dst src) s = .next { dst8 dst (src8 src s).1 (src8 src s).2 with pc := s.pc + 1 } := by
  have hadvance : exec (.mov dst src) s = .next ((dst8 dst (src8 src s).1 (src8 src s).2).advance 1) := by
    rcases dst with r | _ <;> rcases src with q | _
    case m.m => cases hwf
    all_goals rfl
  rw [hadvance]
  exact next_advance 1 (by rw [dst8_pc, src8_pc])

theorem exec_mvi (dst : Operand8) (data : Byte) (s : State) :
    exec (.mvi dst data) s = .next { dst8 dst data s with pc := s.pc + 2 } :=
  next_advance 2 (dst8_pc dst data s)

theorem exec_lxi_of_setPair {rp : RegPair} {v : Word} {s t : State} (h : s.setPair rp v = t) :
    exec (.lxi rp v) s = .next (t.advance 3) := by
  rw [← h]
  rfl

theorem exec_lda (addr : Word) (s : State) :
    exec (.lda addr) s = .next { (memRead addr s).2 with a := (memRead addr s).1, pc := s.pc + 3 } :=
  next_advance 3 (memRead_pc addr s)

theorem exec_sta (addr : Word) (s : State) : exec (.sta addr) s = .next { memWrite addr s.a s with pc := s.pc + 3 } :=
  next_advance 3 (memWrite_pc addr s.a s)

theorem exec_lhld (addr : Word) (s : State) :
    exec (.lhld addr) s =
      .next { (readTwo addr (addr + 1) s).2 with
        l := (readTwo addr (addr + 1) s).1.1, h := (readTwo addr (addr + 1) s).1.2, pc := s.pc + 3 } :=
  next_advance 3 (readTwo_pc addr (addr + 1) s)

theorem exec_ldax (rp : IndirectPair) (s : State) :
    exec (.ldax rp) s =
      .next { (memRead (s.indirect rp) s).2 with a := (memRead (s.indirect rp) s).1, pc := s.pc + 1 } :=
  next_advance 1 (memRead_pc (s.indirect rp) s)

theorem exec_stax (rp : IndirectPair) (s : State) :
    exec (.stax rp) s = .next { memWrite (s.indirect rp) s.a s with pc := s.pc + 1 } :=
  next_advance 1 (memWrite_pc (s.indirect rp) s.a s)

theorem exec_xchg (s : State) :
    exec .xchg s = .next { s with h := s.d, l := s.e, d := s.h, e := s.l, pc := s.pc + 1 } := rfl

/-! ### The statements -/

/-- Settles O11: each form of MOV is `exec_mov` with its two operands put in. -/
theorem movCopiesOperand : Obligations.MovCopiesOperand := fun s _ _ =>
  ⟨spells_of_encode rfl rfl, spells_of_encode rfl rfl, spells_of_encode rfl rfl, exec_mov rfl s, exec_mov rfl s,
    exec_mov rfl s⟩

/-- Settles O12: MVI writes byte 2 as any destination is written, LXI the join of bytes 3 and 2 as a pair is written. -/
theorem immediatesLoadOperand : Obligations.ImmediatesLoadOperand := by
  intro s r data b3 b2
  obtain ⟨hbc, hde, hhl⟩ := setPair_join s b3 b2
  exact ⟨spells_of_encode rfl rfl, spells_of_encode rfl rfl, exec_mvi (.reg r) data s, exec_mvi .m data s,
    spells_of_operand16 rfl rfl, spells_of_operand16 rfl rfl, spells_of_operand16 rfl rfl, spells_of_operand16 rfl rfl,
    exec_lxi_of_setPair hbc, exec_lxi_of_setPair hde, exec_lxi_of_setPair hhl, exec_lxi_of_setPair rfl⟩

/-- Settles O13: the address is read from bytes 3 and 2, and the accesses at it and its successor leave pc alone. -/
theorem directTransfersUseBytesTwoAndThree : Obligations.DirectTransfersUseBytesTwoAndThree := by
  rintro s b3 b2 _ rfl
  exact ⟨spells_of_operand16 rfl rfl, spells_of_operand16 rfl rfl, spells_of_operand16 rfl rfl, spells_of_operand16 rfl rfl,
    exec_lda _ s, exec_sta _ s, exec_lhld _ s, (exec_shld _ s).trans (next_advance 3 (writeTwo_pc ..))⟩

/-- Settles O14: LDAX and STAX at each of their two pairs, and XCHG. -/
theorem pairTransfersUsePairAddress : Obligations.PairTransfersUsePairAddress := fun s =>
  ⟨spells_of_encode rfl rfl, spells_of_encode rfl rfl, spells_of_encode rfl rfl, spells_of_encode rfl rfl,
    spells_of_encode rfl rfl, exec_ldax .b s, exec_ldax .d s, exec_stax .b s, exec_stax .d s, exec_xchg s⟩

end Sys2Proof.Proofs

/-! The arithmetic instructions (41_arithmetic.md R120 to R133): the bytes that spell each, its whole next state in numbers,
and the decimal sum that DAA makes of an addition. -/

namespace Sys2Proof.Proofs

open Sys2Proof.Machine Sys2Proof.Safety Sys2Proof.Laws

/-! ### Z, S and P of a result (R25) -/

theorem beq_zero_eq (r : Byte) : (r == 0x00#8) = decide (r.toNat = 0) := by
  rw [Bool.eq_iff_iff, beq_iff_eq, decide_eq_true_iff, BitVec.toNat_eq]
  rfl

theorem setZSP_eq_resultFlags (r : Byte) (f : Flags) : Flags.setZSP r f = resultFlags r f.cy f.ac := by
  rw [Flags.setZSP, resultFlags, beq_zero_eq, signBit_eq, evenParity_eq_count, evenOnes]

theorem flags_eq_resultFlags (k : AluResult) : k.flags = resultFlags k.r k.cy k.ac :=
  setZSP_eq_resultFlags k.r k.flags

theorem flagsKeepingCY_eq_resultFlags (k : AluResult) (f : Flags) : k.flagsKeepingCY f = resultFlags k.r f.cy k.ac := by
  rw [AluResult.flagsKeepingCY, setZSP_eq_resultFlags]
  rfl

/-! ### Addition and subtraction in A (R120 to R127) -/

theorem accumulate_add8 (t : State) (a v : Byte) (c : Bool) (len : Word) :
    (t.accumulate (add8 a v c)).advance len = sumInA t a v c len := by
  obtain ⟨hr, hcy, hac⟩ := add8_spec a v c
  rw [State.accumulate, flags_eq_resultFlags, hr, hcy, hac]
  rfl

theorem accumulate_sub8 (t : State) (a v : Byte) (c : Bool) (len : Word) :
    (t.accumulate (sub8 a v c)).advance len = differenceInA t a v c len := by
  obtain ⟨hr, hcy, hac⟩ := sub8_spec a v c
  rw [State.accumulate, flags_eq_resultFlags, hr, hcy, hac]
  rfl

theorem exec_add (src : Operand8) (s : State) :
    exec (.add src) s = .next (sumInA (src8 src s).2 s.a (src8 src s).1 false 1) :=
  congrArg _ (accumulate_add8 ..)

theorem exec_adi (data : Byte) (s : State) : exec (.adi data) s = .next (sumInA s s.a data false 2) :=
  congrArg _ (accumulate_add8 ..)

theorem exec_adc (src : Operand8) (s : State) :
    exec (.adc src) s = .next (sumInA (src8 src s).2 s.a (src8 src s).1 s.flags.cy 1) :=
  congrArg _ (accumulate_add8 ..)

theorem exec_aci (data : Byte) (s : State) : exec (.aci data) s = .next (sumInA s s.a data s.flags.cy 2) :=
  congrArg _ (accumulate_add8 ..)

/-- Settles O16: each addition puts `add8` in A, and `add8` in numbers is `add8_spec`. -/
theorem additionsWriteSumAndFlags : Obligations.AdditionsWriteSumAndFlags := fun s src data =>
  ⟨spells_of_encode rfl rfl, spells_of_encode rfl rfl, spells_of_encode rfl rfl, spells_of_encode rfl rfl,
    exec_add src s, exec_adi data s, exec_adc src s, exec_aci data s⟩

/-- Settles O17: each subtraction puts `sub8` in A, and `sub8` in numbers is `sub8_spec`. -/
theorem subtractionsWriteDifferenceAndFlags : Obligations.SubtractionsWriteDifferenceAndFlags := fun s src data =>
  ⟨spells_of_encode rfl rfl, spells_of_encode rfl rfl, spells_of_encode rfl rfl, spells_of_encode rfl rfl,
    congrArg _ (accumulate_sub8 (src8 src s).2 s.a (src8 src s).1 false 1),
    congrArg _ (accumulate_sub8 s s.a data false 2),
    congrArg _ (accumulate_sub8 (src8 src s).2 s.a (src8 src s).1 s.flags.cy 1),
    congrArg _ (accumulate_sub8 s s.a data s.flags.cy 2)⟩

/-! ### Counting by one (R128 to R131) -/

theorem add8_one (v : Byte) :
    (add8 v 1 false).r = BitVec.ofNat 8 (v.toNat + 1) ∧ (add8 v 1 false).ac = decide (v.toNat % 16 = 15) := by
  obtain ⟨hr, -, hac⟩ := add8_spec v 1 false
  refine ⟨hr, hac.trans (decide_eq_decide.2 ?_)⟩
  change 16 ≤ v.toNat % 16 + 1 ↔ _
  omega

theorem sub8_one (v : Byte) :
    (sub8 v 1 false).r = BitVec.ofNat 8 (v.toNat + 255) ∧ (sub8 v 1 false).ac = decide (v.toNat % 16 ≠ 0) := by
  obtain ⟨hr, -, hac⟩ := sub8_spec v 1 false
  refine ⟨hr, hac.trans (decide_eq_decide.2 ?_)⟩
  change 1 ≤ v.toNat % 16 ↔ _
  omega

/-- R128, R129: past the read of the operand, CY and pc are those before the instruction. -/
theorem next_countedOperand (o : Operand8) (k : AluResult) (s : State) :
    (.next (((src8 o s).2.countedOperand o k).advance 1) : Result) =
      .next { dst8 o k.r (src8 o s).2 with flags := resultFlags k.r s.flags.cy k.ac, pc := s.pc + 1 } := by
  rw [State.countedOperand, flagsKeepingCY_eq_resultFlags, src8_flags, next_advance (s := s) 1 (by simp)]
  rfl

theorem exec_inr (o : Operand8) (s : State) :
    exec (.inr o) s =
      .next { dst8 o (BitVec.ofNat 8 ((src8 o s).1.toNat + 1)) (src8 o s).2 with
        flags := resultFlags (BitVec.ofNat 8 ((src8 o s).1.toNat + 1)) s.flags.cy (decide ((src8 o s).1.toNat % 16 = 15))
        pc := s.pc + 1 } := by
  obtain ⟨hr, hac⟩ := add8_one (src8 o s).1
  rw [← hr, ← hac]
  exact next_countedOperand o _ s

theorem exec_dcr (o : Operand8) (s : State) :
    exec (.dcr o) s =
      .next { dst8 o (BitVec.ofNat 8 ((src8 o s).1.toNat + 255)) (src8 o s).2 with
        flags := resultFlags (BitVec.ofNat 8 ((src8 o s).1.toNat + 255)) s.flags.cy (decide ((src8 o s).1.toNat % 16 ≠ 0))
        pc := s.pc + 1 } := by
  obtain ⟨hr, hac⟩ := sub8_one (src8 o s).1
  rw [← hr, ← hac]
  exact next_countedOperand o _ s

/-- Settles O18: the operand read is named, and the read leaves CY and pc alone. -/
theorem incrementDecrementKeepCarry : Obligations.IncrementDecrementKeepCarry := by
  intro s dst v t hread
  obtain ⟨rfl, rfl⟩ := Prod.ext_iff.1 hread
  exact ⟨spells_of_encode rfl rfl, spells_of_encode rfl rfl, exec_inr dst s, exec_dcr dst s⟩

theorem add_one_eq_ofNat (w : Word) : w + 1 = BitVec.ofNat 16 (w.toNat + 1) := by bv_omega

theorem sub_one_eq_ofNat (w : Word) : w - 1 = BitVec.ofNat 16 (w.toNat + 65535) := by bv_omega

theorem exec_inx (rp : RegPair) (s : State) :
    exec (.inx rp) s = .next { s.setPair rp (s.pair rp + 1) with pc := s.pc + 1 } :=
  next_advance 1 (setPair_pc ..)

theorem exec_dcx (rp : RegPair) (s : State) :
    exec (.dcx rp) s = .next { s.setPair rp (s.pair rp - 1) with pc := s.pc + 1 } :=
  next_advance 1 (setPair_pc ..)

/-- Settles O19: the steps of a word by one, in numbers. -/
theorem pairStepsWrap : Obligations.PairStepsWrap := by
  intro s rp
  rw [← add_one_eq_ofNat, ← sub_one_eq_ofNat]
  exact ⟨spells_of_encode rfl rfl, spells_of_encode rfl rfl, spells_of_encode rfl rfl, spells_of_encode rfl rfl,
    spells_of_encode rfl rfl, spells_of_encode rfl rfl, spells_of_encode rfl rfl, spells_of_encode rfl rfl,
    exec_inx rp s, exec_dcx rp s⟩

/-! ### The sum of two pairs (R132) -/

theorem halves_toNat (w : Word) : 256 * (highByte w).toNat + (lowByte w).toNat = w.toNat := by
  rw [← join_toNat, join_high_low]

theorem exec_dad (rp : RegPair) (s : State) :
    exec (.dad rp) s = .next (((s.setHL (s.hl + s.pair rp)).setCY
      (decide (65536 ≤ s.hl.toNat + (s.pair rp).toNat))).advance 1) := by
  obtain ⟨hsum, hcarry⟩ := addDouble_spec s.hl (s.pair rp)
  rw [← hsum, ← hcarry]
  rfl

/-- Settles O20: HL is the join of H and L before, and H and L are the halves of the sum after. -/
theorem dadAddsPairIntoHL : Obligations.DadAddsPairIntoHL := by
  intro s rp
  have hhl : 256 * s.h.toNat + s.l.toNat = s.hl.toNat := (join_toNat s.h s.l).symm
  rw [hhl]
  exact ⟨spells_of_encode rfl rfl, spells_of_encode rfl rfl, spells_of_encode rfl rfl, spells_of_encode rfl rfl,
    _, exec_dad rp s, (halves_toNat (s.hl + s.pair rp)).trans (BitVec.toNat_add ..), rfl, rfl⟩

/-! ### DAA (R133; 90_conflicts.md C7) -/

/-- A and the 6 that step 1 may add to it, not yet taken modulo 256. -/
def sumOfStepOne (a : Byte) (ac : Bool) : Nat := a.toNat + if 9 < a.toNat % 16 ∨ ac = true then 6 else 0

/-- The condition of step 2; the carry of step 1 is its last part (C7). -/
def StepTwoAdds (a : Byte) (cy ac : Bool) : Prop :=
  9 < sumOfStepOne a ac % 256 / 16 ∨ cy = true ∨ 256 ≤ sumOfStepOne a ac

theorem lowDigit_gt_nine (a : Byte) : (9#4 < a.extractLsb' 0 4) ↔ 9 < a.toNat % 16 := by
  simp [BitVec.lt_def, BitVec.extractLsb'_toNat]

theorem highDigit_gt_nine (a : Byte) : (9#4 < a.extractLsb' 4 4) ↔ 9 < a.toNat / 16 := by
  have ha := a.isLt
  simp [BitVec.lt_def, BitVec.extractLsb'_toNat, Nat.shiftRight_eq_div_pow]
  omega

/-- The 9-bit sum of step 1 holds the whole of it. -/
theorem toNat_stepOne (a : Byte) (ac : Bool) :
    (a.setWidth 9 + (if decide (9#4 < a.extractLsb' 0 4) || ac then 6#9 else 0#9)).toNat = sumOfStepOne a ac := by
  have ha := a.isLt
  simp only [sumOfStepOne, Bool.or_eq_true, decide_eq_true_iff, lowDigit_gt_nine, BitVec.toNat_add, BitVec.toNat_setWidth]
  split <;> simp only [BitVec.toNat_ofNat] <;> omega

/-- The 9-bit sum of step 2 holds the whole of it. -/
theorem toNat_stepTwo (a1 : Byte) (step2 : Bool) :
    (a1.setWidth 9 + (if step2 then 0x60#9 else 0#9)).toNat = a1.toNat + if step2 = true then 0x60 else 0 := by
  have ha1 := a1.isLt
  rw [BitVec.toNat_add, BitVec.toNat_setWidth]
  split <;> simp only [BitVec.toNat_ofNat] <;> omega

theorem lowEightBits_eq_ofNat (t : BitVec 9) : t.extractLsb' 0 8 = BitVec.ofNat 8 t.toNat := rfl

theorem bitEight_eq (t : BitVec 9) : t.getLsbD 8 = decide (256 ≤ t.toNat) := by
  have ht := t.isLt
  rw [BitVec.getLsbD, Nat.testBit_eq_decide_div_mod_eq, decide_eq_decide]
  omega

theorem decimalAdjust_eq {a : Byte} {cy ac step2 : Bool} (h : step2 = true ↔ StepTwoAdds a cy ac) :
    decimalAdjust a cy ac =
      { r := BitVec.ofNat 8 (sumOfStepOne a ac % 256 + if step2 = true then 0x60 else 0)
        cy := step2
        ac := decide (9 < a.toNat % 16) } := by
  have hstep2 : (decide (9#4 < (BitVec.ofNat 8 (sumOfStepOne a ac)).extractLsb' 4 4) || cy ||
      decide (256 ≤ sumOfStepOne a ac)) = step2 := by
    rw [Bool.eq_iff_iff, h]
    simp [StepTwoAdds, highDigit_gt_nine, or_assoc]
  simp only [decimalAdjust, lowEightBits_eq_ofNat, bitEight_eq, toNat_stepOne, hstep2, toNat_stepTwo]
  simp only [BitVec.toNat_ofNat, lowDigit_gt_nine]

theorem exec_daa (s : State) :
    exec .daa s = .next ((s.accumulate (decimalAdjust s.a s.flags.cy s.flags.ac)).advance 1) := rfl

/-- Settles O21: the two steps of `decimalAdjust` in numbers. -/
theorem daaAdjustsInTwoSteps : Obligations.DaaAdjustsInTwoSteps := by
  rintro s _ step2 sum rfl hstep2
  refine ⟨spells_of_encode rfl rfl, ?_⟩
  rw [exec_daa, decimalAdjust_eq (step2 := step2) hstep2, State.accumulate, flags_eq_resultFlags]
  rfl

/-! ### DAA after an addition (92_eei_decisions.md D24) -/

/-- A, CY and AC as the addition of two-digit numbers leaves them, when the tens add up to `tens` and the ones, with the
carry in, to `ones`. -/
structure HoldsDigitSums (tens ones : Nat) (a : Byte) (cy ac : Bool) : Prop where
  tens_le : tens ≤ 18
  ones_le : ones ≤ 19
  value : a.toNat = (16 * tens + ones) % 256
  carry : cy = true ↔ 256 ≤ 16 * tens + ones
  auxCarry : ac = true ↔ 16 ≤ ones

theorem bcd_toNat {n : Nat} (h : n < 100) : (bcd n).toNat = 16 * (n / 10) + n % 10 := by
  rw [bcd, BitVec.toNat_ofNat]
  omega

theorem bcd_of_digits_toNat {h l : Nat} (hh : h < 10) (hl : l < 10) : (bcd (10 * h + l)).toNat = 16 * h + l := by
  rw [bcd_toNat (by omega)]
  omega

theorem sumInA_holdsDigitSums {x y : Nat} (hx : x < 100) (hy : y < 100) (t : State) (c : Bool) (len : Word) :
    HoldsDigitSums (x / 10 + y / 10) (x % 10 + y % 10 + c.toNat) (sumInA t (bcd x) (bcd y) c len).a
      (sumInA t (bcd x) (bcd y) c len).flags.cy (sumInA t (bcd x) (bcd y) c len).flags.ac := by
  have hc := c.toNat_le
  have hsum : (bcd x).toNat + (bcd y).toNat + c.toNat = 16 * (x / 10 + y / 10) + (x % 10 + y % 10 + c.toNat) := by
    rw [bcd_toNat hx, bcd_toNat hy]
    omega
  have hlow : (bcd x).toNat % 16 + (bcd y).toNat % 16 = x % 10 + y % 10 := by
    rw [bcd_toNat hx, bcd_toNat hy]
    omega
  constructor
  case tens_le => omega
  case ones_le => omega
  case value => exact (BitVec.toNat_ofNat ..).trans (by rw [hsum])
  case carry => exact decide_eq_true_iff.trans (by rw [hsum])
  case auxCarry => exact decide_eq_true_iff.trans (by rw [hlow])

section

variable {tens ones : Nat} {a : Byte} {cy ac : Bool}

/-- AC tells step 1 of ones that add up to 16 or more, the low digit of ones that add up to 10 to 15: the 6 of step 1 is the
decimal carry into the tens. -/
theorem sumOfStepOne_of_digitSums (h : HoldsDigitSums tens ones a cy ac) :
    sumOfStepOne a ac = (16 * tens + ones) % 256 + if 10 ≤ ones then 6 else 0 := by
  obtain ⟨-, hones, ha, -, hac⟩ := h
  have hcarry : (9 < a.toNat % 16 ∨ ac = true) ↔ 10 ≤ ones := by rw [hac]; omega
  simp only [sumOfStepOne, hcarry]
  rw [ha]

/-- Step 2 adds when the decimal sum is 100 or more, whichever of its three conditions shows it. -/
theorem stepTwoAdds_iff_of_digitSums (h : HoldsDigitSums tens ones a cy ac) :
    StepTwoAdds a cy ac ↔ 100 ≤ 10 * tens + ones := by
  rw [StepTwoAdds, sumOfStepOne_of_digitSums h]
  obtain ⟨htens, hones, -, hcy, -⟩ := h
  rw [hcy]
  split <;> omega

/-- The 6 makes the carry out of the ones decimal, and the 0x60 the carry out of the tens. -/
theorem adjusted_digitSums (htens : tens ≤ 18) (hones : ones ≤ 19) :
    (16 * tens + ones + (if 10 ≤ ones then 6 else 0) + if 100 ≤ 10 * tens + ones then 0x60 else 0) % 256 =
      16 * ((tens + ones / 10) % 10) + ones % 10 := by
  have hstep1 : 16 * tens + ones + (if 10 ≤ ones then 6 else 0) = 16 * (tens + ones / 10) + ones % 10 := by
    split <;> omega
  have hstep2 : 100 ≤ 10 * tens + ones ↔ 10 ≤ tens + ones / 10 := by omega
  have htens' : tens + ones / 10 ≤ 19 := by omega
  have hones' : ones % 10 ≤ 9 := by omega
  rw [hstep1]
  simp only [hstep2]
  generalize tens + ones / 10 = t, ones % 10 = d at htens' hones'
  split <;> omega

theorem decimalAdjust_of_digitSums (h : HoldsDigitSums tens ones a cy ac) :
    (decimalAdjust a cy ac).r = bcd ((10 * tens + ones) % 100) ∧
      ((decimalAdjust a cy ac).cy = true ↔ 100 ≤ 10 * tens + ones) := by
  have hstep2 : decide (100 ≤ 10 * tens + ones) = true ↔ StepTwoAdds a cy ac := by
    rw [decide_eq_true_iff, stepTwoAdds_iff_of_digitSums h]
  rw [decimalAdjust_eq hstep2, sumOfStepOne_of_digitSums h]
  obtain ⟨htens, hones, -, -, -⟩ := h
  have hdigits : (10 * tens + ones) % 100 = 10 * ((tens + ones / 10) % 10) + ones % 10 := by omega
  refine ⟨BitVec.eq_of_toNat_eq ?_, decide_eq_true_iff⟩
  rw [hdigits, bcd_of_digits_toNat (Nat.mod_lt _ (by decide)) (Nat.mod_lt _ (by decide)), BitVec.toNat_ofNat]
  simpa only [Nat.mod_add_mod, decide_eq_true_iff] using adjusted_digitSums htens hones

end

theorem leavesDecimal_of_sumInA {s t : State} {i : Instr} {x y : Nat} {c : Bool} {len : Word} (hx : x < 100)
    (hy : y < 100) (hexec : exec i s = .next (sumInA t (bcd x) (bcd y) c len)) :
    LeavesDecimal s i (x + y + c.toNat) := by
  have hsum : x + y + c.toNat = 10 * (x / 10 + y / 10) + (x % 10 + y % 10 + c.toNat) := by omega
  obtain ⟨ha, hcy⟩ := decimalAdjust_of_digitSums (sumInA_holdsDigitSums hx hy t c len)
  rw [hsum]
  exact ⟨_, _, hexec, exec_daa _, ha, hcy⟩

/-- Settles O22: each of the four additions leaves `sumInA` of the two numbers, which DAA makes decimal. -/
theorem daaAfterAdditionGivesDecimalSum : Obligations.DaaAfterAdditionGivesDecimalSum := by
  intro s x y hx hy ha
  refine ⟨leavesDecimal_of_sumInA hx hy (ha ▸ exec_adi _ s), leavesDecimal_of_sumInA hx hy (ha ▸ exec_aci _ s), ?_⟩
  intro src hsrc
  exact ⟨leavesDecimal_of_sumInA hx hy (ha ▸ hsrc ▸ exec_add src s),
    leavesDecimal_of_sumInA hx hy (ha ▸ hsrc ▸ exec_adc src s)⟩

end Sys2Proof.Proofs

/-! The logical, compare, rotate and flag instructions (42_logical.md R150 to R164): the bytes that spell each and its whole
next state, in numbers where the spec counts bits. -/

namespace Sys2Proof.Proofs

open Sys2Proof.Machine Sys2Proof.Safety Sys2Proof.Laws

/-! ### AND, XOR, OR in A (R150 to R155) -/

theorem logicFlags_eq_resultFlags (r : Byte) (ac : Bool) : logicFlags r ac = resultFlags r false ac :=
  setZSP_eq_resultFlags r (logicFlags r ac)

theorem logicResult_advance (t : State) (r : Byte) (len : Word) :
    (t.logicResult r false).advance len = logicInA t r len := by
  rw [State.logicResult, logicFlags_eq_resultFlags]
  rfl

theorem exec_ana (src : Operand8) (s : State) :
    exec (.ana src) s =
      .next { (src8 src s).2 with
        a := s.a &&& (src8 src s).1
        flags := resultFlags (s.a &&& (src8 src s).1) false (Config.anaAC (src8 src s).2.draws s.a (src8 src s).1)
        draws := (src8 src s).2.draws + 1
        pc := s.pc + 1 } := by
  rw [← logicFlags_eq_resultFlags]
  exact next_advance 1 (src8_pc src s)

/-- Settles O23: the next state is `exec_ana`, whatever AC it draws. -/
theorem anaClearsCarryAndLeavesAuxCarryOpen : Obligations.AnaClearsCarryAndLeavesAuxCarryOpen := fun s src =>
  ⟨spells_of_encode rfl rfl, _, exec_ana src s, rfl⟩

/-- Settles O24: each of the five puts its result in A as `logicResult` does, with AC cleared. -/
theorem logicalsClearCarryAndAuxCarry : Obligations.LogicalsClearCarryAndAuxCarry := fun s src data =>
  ⟨spells_of_encode rfl rfl, spells_of_encode rfl rfl, spells_of_encode rfl rfl, spells_of_encode rfl rfl,
    spells_of_encode rfl rfl,
    congrArg _ (logicResult_advance s (s.a &&& data) 2),
    congrArg _ (logicResult_advance (src8 src s).2 (s.a ^^^ (src8 src s).1) 1),
    congrArg _ (logicResult_advance s (s.a ^^^ data) 2),
    congrArg _ (logicResult_advance (src8 src s).2 (s.a ||| (src8 src s).1) 1),
    congrArg _ (logicResult_advance s (s.a ||| data) 2)⟩

/-! ### The compares (R156, R157) -/

theorem flags_sub8 (a v : Byte) (c : Bool) : (sub8 a v c).flags = differenceFlags a v c := by
  obtain ⟨hr, hcy, hac⟩ := sub8_spec a v c
  rw [flags_eq_resultFlags, hr, hcy, hac]
  rfl

theorem exec_cmp (src : Operand8) (s : State) :
    exec (.cmp src) s =
      .next { (src8 src s).2 with flags := differenceFlags s.a (src8 src s).1 false, pc := s.pc + 1 } := by
  rw [← flags_sub8]
  exact next_advance 1 (src8_pc src s)

theorem exec_cpi (data : Byte) (s : State) :
    exec (.cpi data) s = .next { s with flags := differenceFlags s.a data false, pc := s.pc + 2 } := by
  rw [← flags_sub8]
  rfl

/-- A difference of bytes is 0 modulo 256 only when they are equal. -/
theorem differenceFlags_z (a v : Byte) : (differenceFlags a v false).z = decide (a = v) := by
  have ha := a.isLt
  have hv := v.isLt
  change decide ((BitVec.ofNat 8 (a.toNat + 256 - v.toNat - 0)).toNat = 0) = decide (a = v)
  rw [decide_eq_decide, BitVec.toNat_ofNat, BitVec.toNat_eq]
  omega

theorem differenceFlags_cy (a v : Byte) : (differenceFlags a v false).cy = decide (a.toNat < v.toNat) := rfl

/-- Settles O25: the flags are those of the difference, and Z and CY of a difference order its operands. -/
theorem comparesOrderUnsigned : Obligations.ComparesOrderUnsigned := fun s src data =>
  ⟨spells_of_encode rfl rfl, spells_of_encode rfl rfl, exec_cmp src s, exec_cpi data s,
    fun v => ⟨differenceFlags_z s.a v, differenceFlags_cy s.a v⟩⟩

/-! ### The rotates (R158 to R161) -/

/-- Every left rotate drops bit 7 of A and takes one bit in below, its own or CY. -/
theorem dropHigh_append (a : Byte) (low : BitVec 1) :
    (a.extractLsb' 0 7 ++ low : Byte) = BitVec.ofNat 8 (2 * a.toNat + low.toNat) := by
  apply BitVec.eq_of_toNat_eq
  rw [BitVec.toNat_append, ← Nat.shiftLeft_add_eq_or_of_lt low.isLt, Nat.shiftLeft_eq, BitVec.extractLsb'_toNat,
    Nat.shiftRight_zero, BitVec.toNat_ofNat]
  have hlow := low.isLt
  omega

/-- Every right rotate drops bit 0 of A and takes one bit in above, its own or CY. -/
theorem append_dropLow (high : BitVec 1) (a : Byte) :
    (high ++ a.extractLsb' 1 7 : Byte) = BitVec.ofNat 8 (a.toNat / 2 + 128 * high.toNat) := by
  have hrest := (a.extractLsb' 1 7).isLt
  apply BitVec.eq_of_toNat_eq
  rw [BitVec.toNat_append, ← Nat.shiftLeft_add_eq_or_of_lt hrest, Nat.shiftLeft_eq, BitVec.extractLsb'_toNat,
    Nat.shiftRight_eq_div_pow, BitVec.toNat_ofNat]
  have ha := a.isLt
  have hhigh := high.isLt
  omega

theorem highBit_toNat (a : Byte) : (a.extractLsb' 7 1).toNat = a.toNat / 128 := by
  have ha := a.isLt
  rw [BitVec.extractLsb'_toNat, Nat.shiftRight_eq_div_pow]
  omega

theorem lowBit_toNat (a : Byte) : (a.extractLsb' 0 1).toNat = a.toNat % 2 := BitVec.extractLsb'_toNat ..

theorem lowBit_eq (a : Byte) : a.getLsbD 0 = decide (a.toNat % 2 = 1) := by
  rw [BitVec.getLsbD, Nat.testBit_zero]

theorem exec_rlc (s : State) :
    exec .rlc s =
      .next { s with
        a := BitVec.ofNat 8 (2 * s.a.toNat + s.a.toNat / 128)
        flags := { s.flags with cy := decide (128 ≤ s.a.toNat) }
        pc := s.pc + 1 } := by
  rw [← highBit_toNat, ← dropHigh_append, ← signBit_eq]
  rfl

theorem exec_rrc (s : State) :
    exec .rrc s =
      .next { s with
        a := BitVec.ofNat 8 (s.a.toNat / 2 + 128 * (s.a.toNat % 2))
        flags := { s.flags with cy := decide (s.a.toNat % 2 = 1) }
        pc := s.pc + 1 } := by
  rw [← lowBit_eq, ← lowBit_toNat, ← append_dropLow]
  rfl

theorem exec_ral (s : State) :
    exec .ral s =
      .next { s with
        a := BitVec.ofNat 8 (2 * s.a.toNat + s.flags.cy.toNat)
        flags := { s.flags with cy := decide (128 ≤ s.a.toNat) }
        pc := s.pc + 1 } := by
  rw [← ofBool_toNat, ← dropHigh_append, ← signBit_eq]
  rfl

theorem exec_rar (s : State) :
    exec .rar s =
      .next { s with
        a := BitVec.ofNat 8 (s.a.toNat / 2 + 128 * s.flags.cy.toNat)
        flags := { s.flags with cy := decide (s.a.toNat % 2 = 1) }
        pc := s.pc + 1 } := by
  rw [← ofBool_toNat, ← append_dropLow, ← lowBit_eq]
  rfl

/-- Settles O26: the four rotates in numbers. -/
theorem rotatesMoveBitsThroughCarry : Obligations.RotatesMoveBitsThroughCarry := fun s =>
  ⟨spells_of_encode rfl rfl, spells_of_encode rfl rfl, spells_of_encode rfl rfl, spells_of_encode rfl rfl,
    exec_rlc s, exec_rrc s, exec_ral s, exec_rar s⟩

/-! ### Right after left (R159, R161) -/

/-- A byte shifted left with `low` taken in below gives its low seven bits back when shifted right; with its old bit 7 taken
in above them it is the byte again. -/
theorem restore_highBit (a : Byte) {low : Nat} (hlow : low < 2) :
    BitVec.ofNat 8 ((BitVec.ofNat 8 (2 * a.toNat + low)).toNat / 2 + 128 * (a.toNat / 128)) = a := by
  have ha := a.isLt
  apply BitVec.eq_of_toNat_eq
  simp only [BitVec.toNat_ofNat]
  omega

/-- What was taken in below is what the shift right drops. -/
theorem doubled_mod_two (a : Byte) {low : Nat} (hlow : low < 2) :
    (BitVec.ofNat 8 (2 * a.toNat + low)).toNat % 2 = low := by
  rw [BitVec.toNat_ofNat]
  omega

theorem highBit_lt_two (a : Byte) : a.toNat / 128 < 2 := by
  have ha := a.isLt
  omega

/-- The CY of a left rotate, as the bit that was shifted out. -/
theorem decide_highBit_toNat (a : Byte) : (decide (128 ≤ a.toNat)).toNat = a.toNat / 128 := by
  have ha := a.isLt
  by_cases hhigh : 128 ≤ a.toNat
  · rw [decide_eq_true hhigh, Bool.toNat_true]
    omega
  · rw [decide_eq_false hhigh, Bool.toNat_false]
    omega

theorem add_one_add_one (w : Word) : w + 1 + 1 = w + 2 := BitVec.add_assoc ..

/-- RAL puts CY below and bit 7 in CY, RAR takes both back. -/
theorem exec_rar_of_exec_ral {s t : State} (h : exec .ral s = .next t) :
    exec .rar t = .next { s with pc := s.pc + 2 } := by
  rw [exec_ral] at h
  injection h with h
  rw [exec_rar, ← h]
  simp only [decide_highBit_toNat, restore_highBit _ s.flags.cy.toNat_lt, doubled_mod_two _ s.flags.cy.toNat_lt,
    Bool.toNat_eq_one, Bool.decide_eq_true, add_one_add_one]

/-- RLC puts bit 7 below, RRC takes it back; CY is the bit both moved. -/
theorem exec_rrc_of_exec_rlc {s t : State} (h : exec .rlc s = .next t) :
    exec .rrc t =
      .next { s with pc := s.pc + 2, flags := { s.flags with cy := decide (s.a.toNat / 128 = 1) } } := by
  rw [exec_rlc] at h
  injection h with h
  rw [exec_rrc, ← h]
  simp only [doubled_mod_two _ (highBit_lt_two s.a), restore_highBit _ (highBit_lt_two s.a), add_one_add_one]

/-- Settles O27: each right rotate from the state its left rotate leaves. -/
theorem rightRotatesUndoLeftRotates : Obligations.RightRotatesUndoLeftRotates := fun s =>
  ⟨⟨_, _, exec_ral s, exec_rar_of_exec_ral (exec_ral s), rfl⟩,
    ⟨_, _, exec_rlc s, exec_rrc_of_exec_rlc (exec_rlc s), rfl⟩⟩

/-! ### Complements and the carry flag (R162 to R164) -/

theorem not_eq_ofNat (a : Byte) : ~~~a = BitVec.ofNat 8 (255 - a.toNat) := by
  apply BitVec.eq_of_toNat_eq
  rw [BitVec.toNat_not, BitVec.toNat_ofNat]
  omega

theorem exec_cma (s : State) :
    exec .cma s = .next { s with a := BitVec.ofNat 8 (255 - s.a.toNat), pc := s.pc + 1 } := by
  rw [← not_eq_ofNat]
  rfl

theorem exec_cmc (s : State) :
    exec .cmc s = .next { s with flags := { s.flags with cy := !s.flags.cy }, pc := s.pc + 1 } := rfl

theorem exec_stc (s : State) :
    exec .stc s = .next { s with flags := { s.flags with cy := true }, pc := s.pc + 1 } := rfl

/-- Settles O28: the complement of A in numbers; CMC and STC write CY by definition. -/
theorem complementsWriteOnlyTheirTarget : Obligations.ComplementsWriteOnlyTheirTarget := fun s =>
  ⟨spells_of_encode rfl rfl, spells_of_encode rfl rfl, spells_of_encode rfl rfl, exec_cma s, exec_cmc s, exec_stc s⟩

end Sys2Proof.Proofs

/-! The branch instructions (43_branch.md R180 to R211): the bytes that spell each and its whole next state. The eight
conditional forms of jump, call and return are each one meaning with a condition. -/

namespace Sys2Proof.Proofs

open Sys2Proof.Machine Sys2Proof.Safety Sys2Proof.Laws

/-! ### What spells a conditional form (R77) -/

theorem spells_jumpOf (cond : Cond) (b3 b2 : Byte) :
    Spells (jumpOf cond (b3 ++ b2)) [0b11#2 ++ codeOfCond cond ++ 0b010#3, b2, b3] := by
  cases cond <;> exact spells_of_operand16 rfl rfl

theorem spells_callOf (cond : Cond) (b3 b2 : Byte) :
    Spells (callOf cond (b3 ++ b2)) [0b11#2 ++ codeOfCond cond ++ 0b100#3, b2, b3] := by
  cases cond <;> exact spells_of_operand16 rfl rfl

theorem spells_returnOf (cond : Cond) : Spells (returnOf cond) [0b11#2 ++ codeOfCond cond ++ 0b000#3] := by
  cases cond <;> exact spells_of_encode rfl rfl

/-! ### Jumps (R180 to R189, R211) -/

theorem exec_jmp (addr : Word) (s : State) : exec (.jmp addr) s = .next { s with pc := addr } := rfl

theorem exec_pchl (s : State) : exec .pchl s = .next { s with pc := s.h ++ s.l } := rfl

theorem exec_jumpOf_eq_jumpIf (cond : Cond) (addr : Word) (s : State) :
    exec (jumpOf cond addr) s = jumpIf cond addr s := by
  cases cond <;> rfl

/-- R181: taken or not, a conditional jump writes pc and nothing else. -/
theorem exec_jumpOf (cond : Cond) (addr : Word) (s : State) :
    exec (jumpOf cond addr) s =
      .next { s with pc := if condTrue cond s.flags = true then addr else s.pc + 3 } := by
  rw [exec_jumpOf_eq_jumpIf, condTrue_eq_condHolds, jumpIf]
  split <;> rfl

/-- Settles O29: both write their target to pc by definition. -/
theorem jumpsWriteOnlyPc : Obligations.JumpsWriteOnlyPc := fun s b3 b2 =>
  ⟨spells_of_operand16 rfl rfl, spells_of_encode rfl rfl, exec_jmp (b3 ++ b2) s, exec_pchl s⟩

/-- Settles O30: the eight conditional jumps are one, with the condition of R77's table. -/
theorem conditionalJumpsTestOneFlag : Obligations.ConditionalJumpsTestOneFlag := fun s cond b3 b2 =>
  ⟨spells_jumpOf cond b3 b2, exec_jumpOf cond (b3 ++ b2) s⟩

/-! ### Calls (R190 to R199) -/

theorem exec_call (addr : Word) (s : State) : exec (.call addr) s = .next (callTo addr (s.pc + 3) s) := rfl

theorem exec_callOf_eq_callIf (cond : Cond) (addr : Word) (s : State) :
    exec (callOf cond addr) s = callIf cond addr s := by
  cases cond <;> rfl

theorem exec_callOf (cond : Cond) (addr : Word) (s : State) :
    exec (callOf cond addr) s =
      .next (if condTrue cond s.flags = true then callTo addr (s.pc + 3) s else { s with pc := s.pc + 3 }) := by
  rw [exec_callOf_eq_callIf, condTrue_eq_condHolds]
  rfl

/-- Settles O31: the taken call is `callTo`, which stores the two halves of the next address as `callTo_eq` says. -/
theorem callsPushNextAddress : Obligations.CallsPushNextAddress := by
  rintro s cond b3 b2 next called rfl hcalled
  have hcall : callTo (b3 ++ b2) (s.pc + 3) s = called := (callTo_eq _ _ s).trans hcalled.symm
  rw [← hcall]
  exact ⟨spells_of_operand16 rfl rfl, spells_callOf cond b3 b2, exec_call (b3 ++ b2) s, exec_callOf cond (b3 ++ b2) s⟩

/-! ### Returns (R200 to R209) -/

theorem exec_ret (s : State) : exec .ret s = .next (returnFrom s) := rfl

theorem exec_returnOf_eq_returnIf (cond : Cond) (s : State) : exec (returnOf cond) s = returnIf cond s := by
  cases cond <;> rfl

theorem exec_returnOf (cond : Cond) (s : State) :
    exec (returnOf cond) s =
      .next (if condTrue cond s.flags = true then returnFrom s else { s with pc := s.pc + 1 }) := by
  rw [exec_returnOf_eq_returnIf, condTrue_eq_condHolds]
  rfl

/-- R56, R200: a return by the two bytes it reads. -/
theorem returnFrom_of_readTwo {s t : State} {lo hi : Byte} (h : readTwo s.sp (s.sp + 1) s = ((lo, hi), t)) :
    returnFrom s = { t with sp := s.sp + 2, pc := hi ++ lo } := by
  rw [returnFrom_eq, h]
  rfl

/-- Settles O32: the taken return is `returnFrom` of the two bytes read; the untaken one reads none. -/
theorem returnsPopPc : Obligations.ReturnsPopPc := by
  intro s cond lo hi t returned hread hreturned
  have hreturn : returnFrom s = returned := (returnFrom_of_readTwo hread).trans hreturned.symm
  rw [← hreturn]
  exact ⟨spells_of_encode rfl rfl, spells_returnOf cond, exec_ret s, exec_returnOf cond s⟩

/-! ### Restarts (R210) -/

/-- R78, R210: eight times a 3-bit number, in numbers. -/
theorem restartAddress_eq_ofNat (n : BitVec 3) : restartAddress n = BitVec.ofNat 16 (8 * n.toNat) := by
  apply BitVec.eq_of_toNat_eq
  simp only [restartAddress, BitVec.toNat_mul, BitVec.toNat_setWidth, BitVec.ofNat_eq_ofNat, BitVec.toNat_ofNat]
  omega

theorem exec_rst (n : BitVec 3) (s : State) :
    exec (.rst n) s = .next (callTo (BitVec.ofNat 16 (8 * n.toNat)) (s.pc + 1) s) := by
  rw [← restartAddress_eq_ofNat]
  rfl

/-- Settles O33: RST n is a one-byte call of eight times n. -/
theorem rstCallsEightTimesN : Obligations.RstCallsEightTimesN := by
  rintro s n next rfl
  exact ⟨spells_of_encode rfl rfl, (exec_rst n s).trans (congrArg _ (callTo_eq _ _ s))⟩

end Sys2Proof.Proofs

/-! The stack and machine control instructions (44_stack_io_control.md R220 to R225, R228 to R231): the bytes that spell each
and its whole next state; the stopped state; and when an enable takes effect. -/

namespace Sys2Proof.Proofs

open Sys2Proof.Machine Sys2Proof.Safety Sys2Proof.Laws

/-! ### PUSH and POP (R220 to R223) -/

/-- R28: the status word in numbers; bit 1 is always set. -/
theorem pswPack_toNat (f : Flags) :
    (pswPack f).toNat =
      128 * f.s.toNat + 64 * f.z.toNat + 16 * f.ac.toNat + 4 * f.p.toNat + 2 + f.cy.toNat := by
  obtain ⟨z, s, p, cy, ac⟩ := f
  revert z s p cy ac
  decide

/-- R28: the flags of a status word in numbers; bits 5, 3 and 1 are not read. -/
theorem pswUnpack_eq (v : Byte) :
    pswUnpack v =
      { s := decide (v.toNat / 128 % 2 = 1), z := decide (v.toNat / 64 % 2 = 1), ac := decide (v.toNat / 16 % 2 = 1),
        p := decide (v.toNat / 4 % 2 = 1), cy := decide (v.toNat % 2 = 1) } := by
  simp [pswUnpack, BitVec.getLsbD, Nat.testBit_eq_decide_div_mod_eq]

/-- R220, R221: the two writes of a push leave pc alone. -/
theorem exec_push_eq (rp : StackPair) (s : State) :
    exec (.push rp) s =
      .next { writeTwo (s.sp - 1) (s.stackHigh rp) (s.sp - 2) (s.stackLow rp) s with sp := s.sp - 2, pc := s.pc + 1 } :=
  next_advance 1 (writeTwo_pc (s.sp - 1) (s.stackHigh rp) (s.sp - 2) (s.stackLow rp) s)

/-- R222, R223: a pop by the two bytes it reads. -/
theorem exec_pop_of_readTwo {s t : State} {lo hi : Byte} (rp : StackPair)
    (h : readTwo s.sp (s.sp + 1) s = ((lo, hi), t)) :
    exec (.pop rp) s = .next { ({ t with sp := s.sp + 2 } : State).setStackPair rp hi lo with pc := s.pc + 1 } := by
  have hpop : popBytes s = ((lo, hi), { t with sp := s.sp + 2 }) := by rw [popBytes_eq, h]
  have hpc : t.pc = s.pc := by rw [← readTwo_pc s.sp (s.sp + 1) s, h]
  simp only [exec, execPop, hpop]
  exact next_advance 1 (by rw [setStackPair_pc, hpc])

/-- Settles O35: the four forms of `exec_push_eq`, and the status word in numbers. -/
theorem pushStoresTwoBytes : Obligations.PushStoresTwoBytes := fun s =>
  ⟨spells_of_encode rfl rfl, spells_of_encode rfl rfl, spells_of_encode rfl rfl, spells_of_encode rfl rfl,
    exec_push_eq .b s, exec_push_eq .d s, exec_push_eq .h s, pswPack s.flags, exec_push_eq .psw s, pswPack_toNat s.flags⟩

/-- Settles O36: the four forms of `exec_pop_of_readTwo`, and the flags of the status word in numbers. -/
theorem popLoadsTwoBytes : Obligations.PopLoadsTwoBytes := by
  intro s lo hi t hread
  rw [← pswUnpack_eq]
  exact ⟨spells_of_encode rfl rfl, spells_of_encode rfl rfl, spells_of_encode rfl rfl, spells_of_encode rfl rfl,
    exec_pop_of_readTwo .b hread, exec_pop_of_readTwo .d hread, exec_pop_of_readTwo .h hread,
    exec_pop_of_readTwo .psw hread⟩

/-! ### XTHL and SPHL (R224, R225) -/

theorem kindAt_ne_device_of_backed {s : State} {x : Word} (h : s.backed x = true) : s.kindAt x ≠ .device := by
  intro hdevice
  simp [State.backed, hdevice] at h

/-- R55, R224: on memory the exchange answers the two cells, and leaves what two writes leave. -/
theorem exchangeTwo_backed {s : State} {x y : Word} (vx vy : Byte) (hx : s.backed x = true) (hy : s.backed y = true) :
    exchangeTwo x vx y vy s = ((s.peek x, s.peek y), writeTwo x vx y vy s) := by
  rw [exchangeTwo_plain vx vy (bothDevice_false_of_left (kindAt_ne_device_of_backed hx)), readTwo_backed hx hy]

theorem exec_xthl (s : State) :
    exec .xthl s =
      .next { (exchangeTwo s.sp s.l (s.sp + 1) s.h s).2 with
        l := (exchangeTwo s.sp s.l (s.sp + 1) s.h s).1.1
        h := (exchangeTwo s.sp s.l (s.sp + 1) s.h s).1.2
        pc := s.pc + 1 } :=
  next_advance 1 (exchangeTwo_pc s.sp s.l (s.sp + 1) s.h s)

theorem exec_sphl (s : State) : exec .sphl s = .next { s with sp := s.h ++ s.l, pc := s.pc + 1 } := rfl

/-- Settles O38: XTHL is one exchange; on RAM the exchange is two reads of cells and then two writes of them, at two
addresses that differ. -/
theorem xthlExchangesAndSphlCopies : Obligations.XthlExchangesAndSphlCopies := by
  rintro s _ rfl
  refine ⟨spells_of_encode rfl rfl, spells_of_encode rfl rfl, exec_xthl s, exec_sphl s, fun hx hy => ?answer,
    fun hm hx hy => ⟨?low, ?high, fun z hz hz' => exchangeTwo_peek_other s.l s.h s hz hz'⟩⟩
  case answer => rw [exchangeTwo_backed s.l s.h hx hy]
  case low =>
    have hne : s.sp ≠ s.sp + 1 := by bv_omega
    rw [exchangeTwo_backed s.l s.h (backed_of_ram hx) (backed_of_ram hy), writeTwo_peek_first s.l s.h hne hm hx hy]
  case high =>
    rw [exchangeTwo_backed s.l s.h (backed_of_ram hx) (backed_of_ram hy), writeTwo_peek_second s.l s.h hm hx hy]

/-! ### EI, DI, HLT, NOP (R228 to R231) -/

theorem spells_ei : Spells .ei [0xFB#8] := spells_of_encode rfl rfl

theorem spells_di : Spells .di [0xF3#8] := spells_of_encode rfl rfl

theorem exec_ei (s : State) : exec .ei s = .next { s with eiPending := true, pc := s.pc + 1 } := rfl

theorem exec_di (s : State) : exec .di s = .next { s with inte := false, eiPending := false, pc := s.pc + 1 } := rfl

theorem exec_hlt (s : State) : exec .hlt s = .next { s with halted := true, pc := s.pc + 1 } := rfl

theorem exec_nop (s : State) : exec .nop s = .next { s with pc := s.pc + 1 } := rfl

/-- Settles O40: each writes its bits and pc by definition. -/
theorem controlInstructionsWriteControlBits : Obligations.ControlInstructionsWriteControlBits := fun s =>
  ⟨spells_ei, spells_di, spells_of_encode rfl rfl, spells_of_encode rfl rfl, exec_ei s, exec_di s, exec_hlt s, exec_nop s⟩

/-! ### The stopped state (R230, R248) -/

/-- R244: with no reset and no request accepted, the processor goes on past the boundary. -/
theorem step_eq_proceed {s : State} (hreset : s.boundaryNow.reset = false)
    (hrequest : s.boundaryNow.request = none ∨ s.inte = false) : step s = proceed s.pastBoundary := by
  rcases hrequest with hnone | hinte
  · simp [step, cycle, hreset, hnone]
  · cases hreq : s.boundaryNow.request <;> simp [step, cycle, hreset, hreq, hinte]

/-- R248: while stopped the processor waits if a request could wake it, and else has no next state. -/
theorem proceed_of_halted {s : State} (h : s.halted = true) :
    proceed s = if s.inte = true then .next s else .fault .stopped := by
  simp [proceed, h]

theorem step_of_stopped {s : State} (hhalted : s.halted = true) (hreset : s.boundaryNow.reset = false)
    (hinte : s.inte = false) : step s = .fault .stopped := by
  rw [step_eq_proceed hreset (.inr hinte), proceed_of_halted (s := s.pastBoundary) hhalted, pastBoundary_inte, hinte]
  rfl

theorem step_of_waiting {s : State} (hhalted : s.halted = true) (hreset : s.boundaryNow.reset = false)
    (hinte : s.inte = true) (hrequest : s.boundaryNow.request = none) : step s = .next s.pastBoundary := by
  rw [step_eq_proceed hreset (.inl hrequest), proceed_of_halted (s := s.pastBoundary) hhalted, pastBoundary_inte,
    if_pos hinte]

/-- Settles O47: without a reset a stopped processor with `inte` = 0 has no next state, and one with `inte` = 1 waits unless
a request stands there. -/
theorem stoppedStateLeftOnlyByResetOrInterrupt : Obligations.StoppedStateLeftOnlyByResetOrInterrupt := by
  intro s hhalted
  refine ⟨step_of_stopped hhalted, step_of_waiting hhalted, fun t hstep => ?_⟩
  rcases Bool.eq_false_or_eq_true s.boundaryNow.reset with hreset | hreset
  · exact .inl hreset
  rcases Bool.eq_false_or_eq_true s.inte with hinte | hinte
  · by_cases hrequest : s.boundaryNow.request = none
    · rw [step_of_waiting hhalted hreset hinte hrequest] at hstep
      exact .inr (.inr (Host.Outcome.next.inj hstep).symm)
    · exact .inr (.inl ⟨hinte, hrequest⟩)
  · rw [step_of_stopped hhalted hreset hinte] at hstep
    cases hstep

/-! ### When an enable takes effect (R228, R229, R243) -/

/-- R9, R243: a step that runs an instruction whose bytes stand at pc, by what its `exec` answers. -/
theorem step_of_exec {s t : State} {bytes : List Byte} {i : Instr} (hproceeds : Proceeds s) (hbytes : StandsAtPc s bytes)
    (hspells : Spells i bytes) (hexec : exec i s.pastBoundary = .next t) : step s = .next (endOfStep i t) := by
  have hpast : StandsAtPc s.pastBoundary bytes := hbytes
  have hdecode : decode bytes = .ok (i, []) := by simpa using hspells []
  rw [step_of_proceeds hproceeds, performInstruction_of_next (fetch_of_standsAtPc hpast hdecode) hexec]

/-- The state EI leaves at the end of its step (R228). -/
def afterEi (s : State) : State := { s with eiPending := true, pc := s.pc + 1, boundaries := s.boundaries.tail }

/-- R228, R243: EI defers the enable past its own step. -/
theorem step_ei {s : State} (hproceeds : Proceeds s) (hbytes : StandsAtPc s [0xFB#8]) :
    step s = .next (afterEi s) := by
  rw [step_of_exec hproceeds hbytes spells_ei (exec_ei s.pastBoundary), endOfStep_eq_ite, if_neg (by simp)]
  rfl

/-- R229, R243: DI cancels a pending enable before its step ends. -/
theorem step_di {s : State} (hproceeds : Proceeds s) (hbytes : StandsAtPc s [0xF3#8]) :
    step s = .next { s with inte := false, eiPending := false, pc := s.pc + 1, boundaries := s.boundaries.tail } := by
  rw [step_of_exec hproceeds hbytes spells_di (exec_di s.pastBoundary), endOfStep_eq_ite, if_neg (by simp)]
  rfl

/-- R243: an instruction other than EI and DI, performed with an enable pending, ends with interrupts enabled. -/
theorem step_of_pending {s : State} {bytes : List Byte} {i : Instr} (hproceeds : Proceeds s)
    (hbytes : StandsAtPc s bytes) (hspells : Spells i bytes) (hpending : s.eiPending = true) (hei : i ≠ .ei)
    (hdi : i ≠ .di) :
    ∃ u, exec i s.pastBoundary = .next u ∧ step s = .next { u with inte := true, eiPending := false } := by
  obtain ⟨u, hexec, hstep⟩ := stepRunsDecodedInstruction s bytes i hproceeds hbytes hspells
  obtain ⟨-, hkept, -⟩ := controlBitsChangeOnlyByTheirInstructions i _ u hexec
  have hstill : u.eiPending = true := by rw [hkept, if_neg hdi, if_neg hei, hpending]
  exact ⟨u, hexec, hstep.trans (by rw [if_pos ⟨hstill, hei, hdi⟩])⟩

/-- R244: with `inte` = 0 a request at the boundary stops no instruction. -/
theorem proceeds_of_inte_false {s : State} {request : Option Byte} {rest : List Boundary} (hinte : s.inte = false)
    (hhalted : s.halted = false) (hboundaries : s.boundaries = { reset := false, request := request } :: rest) :
    Proceeds s :=
  ⟨by rw [State.boundaryNow, hboundaries]; rfl, .inr hinte, hhalted⟩

/-- R71: the first of several bytes at pc stands there by itself. -/
theorem standsAtPc_head {s : State} {b : Byte} {bytes : List Byte} (h : StandsAtPc s (b :: bytes)) :
    StandsAtPc s [b] := by
  intro k hk
  obtain rfl : k = 0 := by simpa using hk
  exact h 0 (by simp)

/-- R71: past a one-byte instruction that leaves memory and its map alone, the bytes after it stand at pc. -/
theorem standsAtPc_tail {s t : State} {b : Byte} {bytes : List Byte} (h : StandsAtPc s (b :: bytes))
    (hmem : t.mem = s.mem) (hmap : t.memmap = s.memmap) (hpc : t.pc = s.pc + 1) : StandsAtPc t bytes := by
  intro k hk
  have haddr : t.pc + BitVec.ofNat 16 k = s.pc + BitVec.ofNat 16 (k + 1) := by rw [hpc]; bv_omega
  have hbyte := h (k + 1) (by simpa using hk)
  rw [haddr]
  simpa [State.backed, State.peek, kindAt_eq, hmem, hmap] using hbyte

/-- Settles O48: EI leaves the enable pending and `inte` = 0, so that the next step runs whatever is requested, and its end
enables. -/
theorem eiTakesEffectAfterNextInstruction : Obligations.EiTakesEffectAfterNextInstruction := by
  intro s hproceeds hinte hbytes
  have ⟨_, _, hhalted⟩ := hproceeds
  refine ⟨afterEi s, step_ei hproceeds hbytes, rfl, fun request rest i bytes hnext hspells hei hdi => ?_⟩
  exact step_of_pending (s := { afterEi s with boundaries := { reset := false, request := request } :: rest })
    (proceeds_of_inte_false hinte hhalted rfl) hnext hspells rfl hei hdi

/-- Settles O49: between the two steps `inte` is 0, so that DI runs whatever is requested, and it takes the pending enable
back. -/
theorem eiThenDiOpensNoWindow : Obligations.EiThenDiOpensNoWindow := by
  intro s request rest hproceeds hinte hbytes hboundaries
  have ⟨_, _, hhalted⟩ := hproceeds
  have hnext : Proceeds (afterEi s) := proceeds_of_inte_false hinte hhalted hboundaries
  refine ⟨afterEi s, step_ei hproceeds (standsAtPc_head hbytes), hinte, ?_⟩
  rw [step_di hnext (standsAtPc_tail hbytes rfl rfl rfl)]
  simp [afterEi, hinte, hboundaries, BitVec.add_assoc]

end Sys2Proof.Proofs

/-! Interrupts, and the step as a whole (60_exceptions.md R240 to R250): what an acceptance does, every way a step can end
with a next state, what the interrupt system changes, and the invariant that every step keeps. -/

namespace Sys2Proof.Proofs

open Sys2Proof.Machine Sys2Proof.Safety Sys2Proof.Laws

/-! ### Completion (R240) -/

/-- Settles O50: no meaning but that of MOV M,M, which is no instruction, answers anything but a next state. -/
theorem everyInstructionCompletes : Obligations.EveryInstructionCompletes := fun _ s hwf => exec_completes hwf s

/-! ### What is at the boundary (R244, R246) -/

theorem boundaryNow_of_cons {s : State} {now : Boundary} {rest : List Boundary} (h : s.boundaries = now :: rest) :
    s.boundaryNow = now := by
  rw [State.boundaryNow, h, List.headD_cons]

/-- R245: with no reset, a request is taken up if `inte` = 1. -/
theorem step_eq_acceptInterrupt {s : State} {b : Byte} (hreset : s.boundaryNow.reset = false)
    (hrequest : s.boundaryNow.request = some b) (hinte : s.inte = true) :
    step s = acceptInterrupt b s.pastBoundary := by
  simp [step, cycle, hreset, hrequest, hinte]

/-- R246: the byte of RST n supplies n. -/
theorem suppliedRestart_rst : ∀ n : BitVec 3, suppliedRestart (0b11#2 ++ n ++ 0b111#3) = some n := by decide

/-- R246: a byte that is RST n for no n supplies none. -/
theorem suppliedRestart_eq_none {b : Byte} (h : ∀ n : BitVec 3, b ≠ 0b11#2 ++ n ++ 0b111#3) :
    suppliedRestart b = none := by
  rw [suppliedRestart_spec, if_neg (h (midField b))]

/-- Settles O45: with `inte` = 0 both steps go on past the same boundary; with `inte` = 1 the acceptance finds no n. -/
theorem requestsIgnoredOrRefused : Obligations.RequestsIgnoredOrRefused := by
  intro s b rest hs
  have hnow := boundaryNow_of_cons hs
  have hreset : s.boundaryNow.reset = false := by rw [hnow]
  refine ⟨fun hinte => ?ignored, fun hinte hb => ?refused⟩
  case ignored =>
    have hpast : s.pastBoundary =
        State.pastBoundary { s with boundaries := { reset := false, request := none } :: rest } := by
      simp [State.pastBoundary, hs]
    rw [step_eq_proceed hreset (.inr hinte), hpast]
    exact (step_eq_proceed rfl (.inl rfl)).symm
  case refused =>
    rw [step_eq_acceptInterrupt hreset (by rw [hnow]) hinte, acceptInterrupt, suppliedRestart_eq_none hb]

/-! ### The acceptance (R245, R249) -/

/-- The state in which an accepted interrupt pushes pc: control bits cleared, the acceptance on record. -/
def acknowledged (b : Byte) (s : State) : State :=
  { s with inte := false, eiPending := false, halted := false, events := s.events ++ [.interruptAccepted b] }

/-- The state in which the handler of RST n begins. -/
def handlerEntry (b : Byte) (n : BitVec 3) (s : State) : State := restart n s.pc (acknowledged b s)

theorem acceptInterrupt_of_suppliedRestart {b : Byte} {n : BitVec 3} (h : suppliedRestart b = some n) (s : State) :
    acceptInterrupt b s = .next (handlerEntry b n s) := by
  rw [acceptInterrupt, h]
  rfl

theorem handlerEntry_eq (b : Byte) (n : BitVec 3) (s : State) :
    handlerEntry b n s =
      { writeTwo (s.sp - 1) (highByte s.pc) (s.sp - 2) (lowByte s.pc) (acknowledged b s) with
        sp := s.sp - 2, pc := BitVec.ofNat 16 (8 * n.toNat) } := by
  rw [← restartAddress_eq_ofNat]
  rfl

/-- R249: the acceptance leaves no control bit set. -/
theorem handlerEntry_control (b : Byte) (n : BitVec 3) (s : State) :
    (handlerEntry b n s).inte = false ∧ (handlerEntry b n s).eiPending = false ∧ (handlerEntry b n s).halted = false := by
  simp [handlerEntry_eq, acknowledged]

/-- R245, R249: the acceptance writes the control bits, SP and pc, and besides those only what its two stores do. -/
theorem handlerEntry_frame (b : Byte) (n : BitVec 3) (s : State) :
    handlerEntry b n s =
      { s with
        inte := false, eiPending := false, halted := false, sp := s.sp - 2, pc := BitVec.ofNat 16 (8 * n.toNat)
        mem := (handlerEntry b n s).mem, events := (handlerEntry b n s).events, answers := s.answers
        draws := (handlerEntry b n s).draws } := by
  have hframe := writeTwo_frame (s.sp - 1) (highByte s.pc) (s.sp - 2) (lowByte s.pc) (acknowledged b s)
  rw [AccessFrame, writeTwo_answers] at hframe
  rw [handlerEntry_eq, hframe]
  rfl

theorem handlerEntry_peek_other {b : Byte} {n : BitVec 3} {s : State} {x : Word} (h1 : x ≠ s.sp - 1)
    (h2 : x ≠ s.sp - 2) : (handlerEntry b n s).peek x = s.peek x := by
  rw [handlerEntry_eq]
  exact writeTwo_peek_other _ _ (acknowledged b s) h1 h2

/-- R56, R245 on RAM: pc stands below the old SP, high-order byte first. -/
theorem handlerEntry_peek_stacked {b : Byte} {n : BitVec 3} {s : State} (hm : Memory.wf s.mem = true)
    (h1 : s.kindAt (s.sp - 1) = .ram) (h2 : s.kindAt (s.sp - 2) = .ram) :
    (handlerEntry b n s).peek (s.sp - 1) = highByte s.pc ∧ (handlerEntry b n s).peek (s.sp - 2) = lowByte s.pc := by
  have hne : s.sp - 1 ≠ s.sp - 2 := by bv_omega
  rw [handlerEntry_eq]
  exact ⟨writeTwo_peek_first (s := acknowledged b s) _ _ hne hm h1 h2,
    writeTwo_peek_second (s := acknowledged b s) _ _ hm h1 h2⟩

/-- R242: the acceptance comes on record before the two stores. -/
theorem handlerEntry_events (b : Byte) (n : BitVec 3) (s : State) :
    s.events ++ [.interruptAccepted b] <+: (handlerEntry b n s).events := by
  rw [handlerEntry_eq]
  exact writeTwo_events _ _ _ _ (acknowledged b s)

theorem handlerEntry_events_of_noDevice {b : Byte} {n : BitVec 3} {s : State} (h1 : s.kindAt (s.sp - 1) ≠ .device)
    (h2 : s.kindAt (s.sp - 2) ≠ .device) : (handlerEntry b n s).events = s.events ++ [.interruptAccepted b] := by
  rw [handlerEntry_eq]
  exact (writeTwo_quiet (s := acknowledged b s) _ _ h1 h2).1

/-- R250 on RAM: RET at the handler's entry undoes all but the clearing, the record and the two stacked bytes. -/
theorem returnFrom_handlerEntry (b : Byte) (n : BitVec 3) {s : State} (hm : Memory.wf s.mem = true)
    (h1 : s.kindAt (s.sp - 1) = .ram) (h2 : s.kindAt (s.sp - 2) = .ram) :
    returnFrom (handlerEntry b n s) = { acknowledged b s with mem := (handlerEntry b n s).mem } :=
  returnFrom_callTo (s := acknowledged b s) (restartAddress n) s.pc hm h1 h2

/-- R245, R247: a step that finds a request with RST n, and `inte` = 1, is the entry of its handler. -/
theorem step_of_accepted {s : State} {n : BitVec 3} {rest : List Boundary}
    (hs : s.boundaries = { reset := false, request := some (0b11#2 ++ n ++ 0b111#3) } :: rest) (hinte : s.inte = true) :
    step s = .next (handlerEntry (0b11#2 ++ n ++ 0b111#3) n s.pastBoundary) := by
  have hnow := boundaryNow_of_cons hs
  rw [step_eq_acceptInterrupt (by rw [hnow]) (by rw [hnow]) hinte,
    acceptInterrupt_of_suppliedRestart (suppliedRestart_rst n)]

theorem pastBoundary_of_cons {s : State} {now : Boundary} {rest : List Boundary} (h : s.boundaries = now :: rest) :
    s.pastBoundary = { s with boundaries := rest } := by
  rw [State.pastBoundary, h, List.tail_cons]

/-- Settles O43: the step is the entry of the handler past the boundary. -/
theorem acceptanceEntersHandler : Obligations.AcceptanceEntersHandler := by
  intro s n rest hs hinte
  refine ⟨_, step_of_accepted hs hinte, ?state, fun x h1 h2 => handlerEntry_peek_other h1 h2,
    fun hm h1 h2 => handlerEntry_peek_stacked hm h1 h2, handlerEntry_events _ n s.pastBoundary,
    fun h1 h2 => handlerEntry_events_of_noDevice (s := s.pastBoundary) h1 h2⟩
  rw [pastBoundary_of_cons hs]
  exact handlerEntry_frame _ _ _

/-- Settles O44: RET pops the pc that the acceptance pushed. -/
theorem handlerReturnResumes : Obligations.HandlerReturnResumes := by
  intro s n rest hs hinte hm h1 h2
  refine ⟨_, _, step_of_accepted hs hinte, exec_ret _, ?state, fun x hx1 hx2 => ?others⟩
  case state =>
    rw [pastBoundary_of_cons hs]
    exact returnFrom_handlerEntry _ n (s := { s with boundaries := rest }) hm h1 h2
  case others =>
    rw [returnFrom_handlerEntry (s := s.pastBoundary) _ n hm h1 h2]
    exact handlerEntry_peek_other (n := n) (s := s.pastBoundary) hx1 hx2

/-! ### Every way a step ends with a next state (R245 to R248, R270) -/

theorem readOperandBytes_frame (n : Nat) (s : State) : ReadFrame s (readOperandBytes n s).2 := by
  unfold readOperandBytes
  split
  case h_1 => exact memRead_frame _ s
  case h_2 => exact readTwo_frame _ _ s
  case h_3 => exact .refl s

/-- R9: a fetch changes what its reads change. -/
theorem fetch_frame {s t : State} {i : Instr} (h : fetch s = .ok (i, t)) : ReadFrame s t := by
  have hfirst : ReadFrame s (memRead s.pc s).2 := memRead_frame _ s
  simp only [fetch] at h
  split at h
  case h_1 => cases h
  case h_2 n _ =>
    split at h
    case h_1 => cases h; exact hfirst.trans (readOperandBytes_frame n _)
    case h_2 => cases h

/-- R9, R243: a performed instruction was fetched, executed, and followed by the bookkeeping. -/
theorem performInstruction_next {s t : State} (h : performInstruction s = .next t) :
    ∃ i u v, fetch s = .ok (i, u) ∧ exec i u = .next v ∧ t = endOfStep i v := by
  unfold performInstruction at h
  split at h
  case h_1 => cases h
  case h_2 i u hfetch =>
    split at h
    case h_1 v hexec => cases h; exact ⟨i, u, v, hfetch, hexec, rfl⟩
    case h_2 => cases h
    case h_3 => cases h

/-- The four ways: reset, an accepted interrupt, a wait while stopped, one instruction. -/
inductive StepEnds (s : State) : State → Prop
  | reset (hreset : s.boundaryNow.reset = true) : StepEnds s s.pastBoundary.resetEvent
  | accepted {b : Byte} {n : BitVec 3} (hreset : s.boundaryNow.reset = false)
      (hrequest : s.boundaryNow.request = some b) (hinte : s.inte = true) (hrestart : suppliedRestart b = some n) :
      StepEnds s (handlerEntry b n s.pastBoundary)
  | waited (hreset : s.boundaryNow.reset = false) (hrequest : s.boundaryNow.request = none) (hinte : s.inte = true)
      (hhalted : s.halted = true) : StepEnds s s.pastBoundary
  | performed {i : Instr} {u v : State} (hproceeds : Proceeds s) (hfetch : fetch s.pastBoundary = .ok (i, u))
      (hexec : exec i u = .next v) : StepEnds s (endOfStep i v)

/-- R248: with nothing accepted, the processor waits or performs an instruction. -/
theorem stepEnds_of_unaccepted {s t : State} (hreset : s.boundaryNow.reset = false)
    (hrequest : s.boundaryNow.request = none ∨ s.inte = false) (h : step s = .next t) : StepEnds s t := by
  rcases Bool.eq_false_or_eq_true s.halted with hhalted | hhalted
  · rw [step_eq_proceed hreset hrequest, proceed_of_halted (s := s.pastBoundary) hhalted] at h
    split at h
    case isTrue hinte =>
      have hnone : s.boundaryNow.request = none := hrequest.resolve_right (by simpa using hinte)
      cases h
      exact .waited hreset hnone hinte hhalted
    case isFalse => cases h
  · have hproceeds : Proceeds s := ⟨hreset, hrequest, hhalted⟩
    rw [step_of_proceeds hproceeds] at h
    obtain ⟨i, u, v, hfetch, hexec, rfl⟩ := performInstruction_next h
    exact .performed hproceeds hfetch hexec

/-- R247: reset wins over a request, and an accepted request over what the processor would do by itself. -/
theorem stepEnds_of_step {s t : State} (h : step s = .next t) : StepEnds s t := by
  rcases Bool.eq_false_or_eq_true s.boundaryNow.reset with hreset | hreset
  · rw [step_of_reset hreset] at h
    cases h
    exact .reset hreset
  · rcases Bool.eq_false_or_eq_true s.inte with hinte | hinte
    · cases hrequest : s.boundaryNow.request with
      | none => exact stepEnds_of_unaccepted hreset (.inl hrequest) h
      | some b =>
        rw [step_eq_acceptInterrupt hreset hrequest hinte] at h
        obtain ⟨n, hrestart, rfl⟩ := acceptInterrupt_next h
        exact .accepted hreset hrequest hinte hrestart
    · exact stepEnds_of_unaccepted hreset (.inr hinte) h

/-! ### When `inte` changes (R243, R245, R270) -/

/-- R243: the control bits a performed instruction leaves, from those before its fetch. -/
theorem endOfStep_control {s u v : State} {i : Instr} (hfetch : fetch s = .ok (i, u)) (hexec : exec i u = .next v) :
    (endOfStep i v).inte = (if i = .di then false else s.inte || (s.eiPending && i != .ei)) ∧
      (endOfStep i v).eiPending = (i == .ei) ∧ (endOfStep i v).halted = (if i = .hlt then true else s.halted) := by
  obtain ⟨hinte, hpending, hhalted⟩ := controlBitsChangeOnlyByTheirInstructions i u v hexec
  have hframe := (fetch_frame hfetch).access
  rw [hframe.inte] at hinte
  rw [hframe.eiPending] at hpending
  rw [hframe.halted] at hhalted
  rw [endOfStep_eq, hinte, hpending, hhalted]
  by_cases hdi : i = .di
  · simp [hdi]
  · by_cases hei : i = .ei
    · simp [hei]
    · simp [hdi, hei, bne_iff_ne.2 hdi, bne_iff_ne.2 hei]

/-- Settles O57: of the four ways a step ends, reset and acceptance clear `inte`, a wait keeps it, and a performed
instruction leaves the old value, cleared by DI, or a pending enable. -/
theorem inteChangesOnlyByRule : Obligations.InteChangesOnlyByRule := by
  intro s t h
  cases stepEnds_of_step h with
  | reset hreset => exact ⟨fun _ hon => (Bool.false_ne_true hon).elim, fun _ _ => .inl hreset⟩
  | accepted _ hrequest hinte _ =>
    exact ⟨fun hoff _ => (Bool.false_ne_true (hoff.symm.trans hinte)).elim,
      fun _ _ => .inr (.inl (by simp [hrequest]))⟩
  | waited _ _ hinte _ =>
    exact ⟨fun hoff _ => (Bool.false_ne_true (hoff.symm.trans hinte)).elim,
      fun hon hoff => (Bool.false_ne_true (hoff.symm.trans hon)).elim⟩
  | @performed i u v hproceeds hfetch hexec =>
    obtain ⟨hinte, -, -⟩ := endOfStep_control hfetch hexec
    rw [hinte, pastBoundary_inte, pastBoundary_eiPending]
    refine ⟨fun hoff hon => ?enabled, fun hon hoff => ?disabled⟩
    case enabled =>
      refine ⟨?_, hproceeds⟩
      by_contra hnone
      simp [hoff, hnone] at hon
    case disabled =>
      obtain rfl : i = .di := by
        by_contra hdi
        simp [hon, hdi] at hoff
      exact .inr (.inr ⟨u, hfetch⟩)

/-! ### The invariant (R50, R243, R248) -/

/-- What leaves memory alone leaves its form. -/
theorem wf_of_mem_eq {s t : State} (h : t.mem = s.mem) (hm : Memory.wf s.mem = true) : Memory.wf t.mem = true := by
  rw [h, hm]

/-- R56: the two stores of a call. -/
theorem callTo_wf {s : State} (target next : Word) (hm : Memory.wf s.mem = true) :
    Memory.wf (callTo target next s).mem = true := writeTwo_wf _ _ _ _ hm

/-- R56: a return stores nothing. -/
theorem returnFrom_mem (s : State) : (returnFrom s).mem = s.mem := (readTwo_frame _ _ s).mem

section

variable {s t : State} {cond : Cond} {addr : Word}

theorem jumpIf_mem (h : jumpIf cond addr s = .next t) : t.mem = s.mem := by
  cases h
  split <;> rfl

theorem callIf_wf (hm : Memory.wf s.mem = true) (h : callIf cond addr s = .next t) : Memory.wf t.mem = true := by
  cases h
  split
  case isTrue => exact callTo_wf addr _ hm
  case isFalse => exact hm

theorem returnIf_mem (h : returnIf cond s = .next t) : t.mem = s.mem := by
  cases h
  split
  case isTrue => exact returnFrom_mem s
  case isFalse => rfl

end

/-- R50: every instruction keeps the canonical form. The first cases store; the others leave memory as their reads, of
which they name the last, left it. -/
theorem exec_wf {i : Instr} {s t : State} (hm : Memory.wf s.mem = true) (h : exec i s = .next t) :
    Memory.wf t.mem = true := by
  cases i
  case mov dst src => cases h.symm.trans (execMov_of_next h s); exact dst8_wf dst _ (src8_wf src hm)
  case mvi dst data => cases h; exact dst8_wf dst data hm
  case inr dst | dcr dst => cases h; exact dst8_wf dst _ (src8_wf dst hm)
  case sta | stax => cases h; exact memWrite_wf _ _ hm
  case shld | push => cases h; exact writeTwo_wf _ _ _ _ hm
  case xthl => cases h; exact exchangeTwo_wf _ _ _ _ hm
  case call | rst => cases h; exact callTo_wf _ _ hm
  case cnz | cz | cnc | cc | cpo | cpe | cp | cm => exact callIf_wf hm h
  case add src | adc src | sub src | sbb src | ana src | xra src | ora src | cmp src => cases h; exact src8_wf src hm
  case lda | ldax => cases h; exact memRead_wf _ hm
  case lhld => cases h; exact wf_of_mem_eq (readTwo_frame _ _ s).mem hm
  case pop => cases h; exact wf_of_mem_eq ((setStackPair_mem ..).trans (readTwo_frame _ _ s).mem) hm
  case ret => cases h; exact wf_of_mem_eq (returnFrom_mem s) hm
  case rnz | rz | rnc | rc | rpo | rpe | rp | rm => exact wf_of_mem_eq (returnIf_mem h) hm
  case jnz | jz | jnc | jc | jpo | jpe | jp | jm => exact wf_of_mem_eq (jumpIf_mem h) hm
  case lxi | inx | dcx => cases h; exact wf_of_mem_eq (setPair_mem ..) hm
  all_goals cases h; exact hm

/-- R50: a performed instruction keeps the canonical form through fetch, meaning and bookkeeping. -/
theorem endOfStep_wf {s u v : State} {i : Instr} (hm : Memory.wf s.mem = true) (hfetch : fetch s = .ok (i, u))
    (hexec : exec i u = .next v) : Memory.wf (endOfStep i v).mem = true := by
  rw [endOfStep_eq]
  exact exec_wf (t := v) (wf_of_mem_eq (fetch_frame hfetch).mem hm) hexec

/-- Settles O59: reset and acceptance start the processor, a wait keeps the state, and at the end of an instruction an
enable is pending after EI only, which does not stop. -/
theorem stepKeepsInvariant : Obligations.StepKeepsInvariant := by
  rintro s t ⟨hm, hstopped⟩ h
  cases stepEnds_of_step h with
  | reset => exact ⟨hm, fun _ => rfl⟩
  | @accepted b n =>
    obtain ⟨-, hpending, -⟩ := handlerEntry_control b n s.pastBoundary
    exact ⟨callTo_wf _ _ hm, fun _ => hpending⟩
  | waited => exact ⟨hm, hstopped⟩
  | @performed i u v hproceeds hfetch hexec =>
    obtain ⟨-, -, hrunning⟩ := hproceeds
    obtain ⟨-, hpending, hhalted⟩ := endOfStep_control hfetch hexec
    refine ⟨endOfStep_wf (s := s.pastBoundary) hm hfetch hexec, fun hstop => ?_⟩
    obtain rfl : i = .hlt := by simpa [hhalted, hrunning] using hstop
    rw [hpending]
    rfl

end Sys2Proof.Proofs

/-! # The reset state (70_reset_and_hazards.md) -/

namespace Sys2Proof.Proofs

open Sys2Proof.Machine Sys2Proof.Laws Sys2Proof.Safety

/-- The memory that lists nothing is in canonical form. -/
@[simp] theorem wf_nil : Memory.wf [] = true := rfl

/-- Settles O60: right after reset memory lists nothing, and no enable is pending (R270), stopped or not. -/
theorem resetMeetsInvariant : Obligations.ResetMeetsInvariant := by
  obtain ⟨-, -, -, hpending, -⟩ := resetWritesControlStateOnly
  exact ⟨wf_nil, fun _ => hpending⟩

end Sys2Proof.Proofs
